-- ==== Sys2Proof/Word.lean ====
section
/-! DEFINITION. The word types of the block: every value is an unsigned bit vector (00_scope.md R11). The row and the
column pointer are no word types: their widths are parameters (R9), so State holds them as numbers below a bound. -/

namespace Sys2Proof

/-- One byte: "A byte is 8 bits" (00_scope.md R11; 20_memory.md R62). -/
abbrev Byte := BitVec 8

/-- A 12-bit event word E[11:0] (30_encoding.md R80). -/
abbrev EventWord := BitVec 12

/-- The field A[1:0] of an event word (30_encoding.md R81; 20_memory.md R61). -/
abbrev PortOffset := BitVec 2

/-- The channel field, two bits (10_state.md R29, R42). -/
abbrev Channel := BitVec 2

end Sys2Proof
end

