-- ==== Sys2Proof/Config.lean ====
section
/-! DEFINITION. The implementation parameters (00_scope.md R9, R10; 92_eei_decisions.md D1, D2, D3, D22, D24, D25):
every constant of R9 and every switch is a field of `Params`, with the spec's default in `Config.standard`. Also the
constants that have no value here: the two that belong to the host, and the byte of a payload that was not delivered. -/

namespace Sys2Proof

namespace Config

/-- The host's base address of the four ports (20_memory.md R61, 92_eei_decisions.md D14). It is the host's, the spec
gives no value: no body (log 21). -/
opaque BASE : Nat

/-- The name of the interrupt line on the host bus (92_eei_decisions.md D21). It is the host's, the spec gives none: no
body (log 21). -/
opaque IRQ_NAME : String

/-- The n-th byte of a payload that has no n-th byte. Every payload has all K bytes (41_poll_bridge.md R143), so no
well-formed input reads it; a free value, no body (log 26). -/
opaque missingByte : Nat → Byte

end Config

/-- How a cursor index out of range is treated (92_eei_decisions.md D2, D3). -/
inductive IndexPolicy
  /-- The row is masked to 4 bits, the column wraps within its row (the default). -/
  | mask
  /-- The access is refused (the conservative alternative). -/
  | refuse
  deriving DecidableEq, Repr

/-- POLL's interrupt step (92_eei_decisions.md D25). -/
inductive PollIrqMode
  /-- `irq <- irq ∨ ints_en` (the default, 41_poll_bridge.md R149). -/
  | unconditional
  /-- `irq <- ints_en ∧ int` (the switch for the document's open question). -/
  | recompute
  deriving DecidableEq, Repr

/-- STATUS_WR_LAYOUT: where each field of a Status write stands in the byte (10_state.md R42, 92_eei_decisions.md D1). -/
structure StatusLayout where
  /-- The lower bit of the two-bit channel field. -/
  channel : Nat
  /-- The bit of out_en. -/
  outEn : Nat
  /-- The bit of ints_en. -/
  intsEn : Nat
  /-- The bit of afc_en. -/
  afcEn : Nat
  /-- The bit of links_b. -/
  linksB : Nat
  deriving DecidableEq, Repr

/-- The parameters of R9, each a configuration field (92_eei_decisions.md D22), with the switches of
92_eei_decisions.md. They are fixed for a run (10_state.md R37 (c)); the model carries them beside the block's state
(log 7). -/
structure Params where
  /-- NROWS: rows of the RowBuffer. -/
  nrows : Nat
  /-- NCOLS: bytes of a RowBuffer row. -/
  ncols : Nat
  /-- NCHAN: logical channels, and feed slots. -/
  nchan : Nat
  /-- RECLEN: payload bytes of a row record. -/
  reclen : Nat
  /-- K: payload bytes of a slot in one tick. -/
  k : Nat
  /-- The data bus width, in bits. -/
  dataBits : Nat
  /-- The port address width, in bits. -/
  portBits : Nat
  /-- The row pointer width, in bits. -/
  rowBits : Nat
  /-- The column pointer width, in bits. -/
  colBits : Nat
  /-- MARKER: the byte at column 0 of a refreshed row. -/
  marker : Byte
  /-- LINKS: the constant status bits 3:0. -/
  links : BitVec 4
  /-- SENTINEL: what every read returns while disabled. -/
  sentinel : Byte
  /-- STICKY_MASK: the bits a POLL with data sets. -/
  stickyMask : Byte
  /-- CLEAR_MASK: the bits a Clear access clears (D24). -/
  clearMask : Byte
  /-- STATUS_RESET: the StatusLatch after reset. -/
  statusReset : Byte
  /-- POLL_IRQ_MODE (D25). -/
  pollIrqMode : PollIrqMode
  /-- index_policy (D2, D3). -/
  indexPolicy : IndexPolicy
  /-- STATUS_WR_LAYOUT (D1). -/
  layout : StatusLayout
  deriving DecidableEq, Repr

/-- The RowBuffer's size in bytes, NROWS · NCOLS (10_state.md R35, 20_memory.md R60). -/
def Params.rbSize (c : Params) : Nat := c.nrows * c.ncols

namespace Config

/-- The default STATUS_WR_LAYOUT: channel = D[1:0], out_en = D[2], ints_en = D[3], afc_en = D[4], links_b = D[5]
(92_eei_decisions.md D1). PRESUMED: the spec takes it from general knowledge (log 8). -/
def standardLayout : StatusLayout := { channel := 0, outEn := 2, intsEn := 3, afcEn := 4, linksB := 5 }

/-- Every parameter at the spec's default (00_scope.md R9; 92_eei_decisions.md). -/
def standard : Params where
  nrows := 16
  ncols := 64
  nchan := 4
  reclen := 42
  k := 672
  dataBits := 8
  portBits := 2
  rowBits := 4
  colBits := 6
  marker := 0x27#8
  links := 0xF#4
  sentinel := 0xFF#8
  stickyMask := 0xD0#8
  clearMask := 0xD0#8
  statusReset := 0x0F#8
  pollIrqMode := .unconditional
  indexPolicy := .mask
  layout := standardLayout

end Config

end Sys2Proof
end

