-- ==== Sys2Proof/Syntax.lean ====
section
/-! DEFINITION. The abstract syntax: the twelve events of the opcode map (30_encoding.md R88), who issues each
(00_scope.md R8), the four ports (20_memory.md R61) and the pseudo-instructions (30_encoding.md R92). -/

namespace Sys2Proof

/-- One event, one constructor per row of the opcode map (30_encoding.md R88). The write byte D is the only operand
(R86). The inputs of POLL and ENABLE stand beside the word, not in it (R84, R85). -/
inductive Instr
  | rdStatus
  | rdRow
  | rdData
  | rdClear
  | wrStatus (d : Byte)
  | wrRow (d : Byte)
  | wrData (d : Byte)
  | wrClear (d : Byte)
  | poll
  | reset
  | enable
  | disable
  deriving DecidableEq, Repr

/-- The agents that issue events (00_scope.md R8 (a), (b), (d)). The FeedChannels of R8 (c) issue none: they supply
POLL's payloads. -/
inductive Agent
  | host
  | frameDriver
  | lifecycle
  deriving DecidableEq, Repr

/-- The four byte ports of the host window (20_memory.md R61, 60_exceptions.md R204). -/
inductive Port
  | status
  | row
  | data
  | clear
  deriving DecidableEq, Repr

/-- A lifecycle operation, the OP field of format LC (30_encoding.md R81, R85). -/
inductive LifecycleOp
  | reset
  | enable
  | disable
  deriving DecidableEq, Repr

/-- The agent that issues an event (00_scope.md R8). -/
def Instr.agent : Instr → Agent
  | .rdStatus | .rdRow | .rdData | .rdClear => .host
  | .wrStatus _ | .wrRow _ | .wrData _ | .wrClear _ => .host
  | .poll => .frameDriver
  | .reset | .enable | .disable => .lifecycle

/-- The event is a bus read: it returns a byte to the host (30_encoding.md R82). -/
def Instr.isRead : Instr → Bool
  | .rdStatus | .rdRow | .rdData | .rdClear => true
  | .wrStatus _ | .wrRow _ | .wrData _ | .wrClear _ | .poll | .reset | .enable | .disable => false

/-- The event is a Data access, read or write (10_state.md R34). -/
def Instr.isDataAccess : Instr → Bool
  | .rdData | .wrData _ => true
  | .rdStatus | .rdRow | .rdClear | .wrStatus _ | .wrRow _ | .wrClear _ | .poll | .reset | .enable | .disable => false

/-- The event is a Clear access, read or write (10_state.md R45). -/
def Instr.isClearAccess : Instr → Bool
  | .rdClear | .wrClear _ => true
  | .rdStatus | .rdRow | .rdData | .wrStatus _ | .wrRow _ | .wrData _ | .poll | .reset | .enable | .disable => false

/-- The pseudo-instructions of the event-list syntax (30_encoding.md R92). -/
inductive Pseudo
  | select (ch : Channel) (out ints : Bool)
  | seek (r : Byte)
  | ack
  | put (bytes : List Byte)
  | get (n : Nat)
  | readRow (r : Byte) (n : Nat)
  | idle
  deriving DecidableEq, Repr

end Sys2Proof
end

