-- ==== Sys2Proof/WellFormed.lean ====
section
/-! DEFINITION. Well-formedness. An event's only operand is a byte, every value of which is legal (30_encoding.md R86,
R90), so the types already hold all there is to check of an event. The parameters carry the checks of 00_scope.md R10
and of a usable STATUS_WR_LAYOUT (92_eei_decisions.md D1). The inputs beside an event are checked in Machine/Ops.lean. -/

namespace Sys2Proof

/-- Every event is well formed: no value of D is illegal, ignored bits are not reserved (30_encoding.md R90). -/
def Instr.wf : Instr → Bool
  | .rdStatus | .rdRow | .rdData | .rdClear => true
  | .wrStatus _ | .wrRow _ | .wrData _ | .wrClear _ => true
  | .poll | .reset | .enable | .disable => true

/-- The byte's bits a layout uses: the channel's two, then one each (10_state.md R42). -/
def StatusLayout.bits (l : StatusLayout) : List Nat :=
  [l.channel, l.channel + 1, l.outEn, l.intsEn, l.afcEn, l.linksB]

/-- Every field stands inside the byte and no two fields share a bit. -/
def StatusLayout.wf (l : StatusLayout) : Bool :=
  l.bits.all (· < 8) && decide l.bits.Nodup

/-- The dimensions agree (00_scope.md R10): K = NROWS·RECLEN, and 1 + RECLEN ≤ NCOLS, so a merge never leaves its row.
A record has a first byte (41_poll_bridge.md R144). The pointers' widths hold exactly the rows and the columns
(10_state.md R33, R34), and a row number fits the written byte (R33). -/
def Params.dimensionsAgree (c : Params) : Bool :=
  decide (c.k = c.nrows * c.reclen) && decide (0 < c.reclen) && decide (1 + c.reclen ≤ c.ncols) &&
    decide (c.nrows = 2 ^ c.rowBits) && decide (c.ncols = 2 ^ c.colBits) && decide (c.rowBits ≤ c.dataBits)

/-- The widths that the spec's own formats fix: a bus access moves one byte of 8 bits (00_scope.md R11, 20_memory.md
R62), the event word's port field has two bits (30_encoding.md R81), and the channel field's two bits name every channel
(10_state.md R29, R42). -/
def Params.formatsAgree (c : Params) : Bool :=
  decide (c.dataBits = 8) && decide (c.portBits = 2) && decide (c.nchan = 2 ^ 2)

/-- The equalities a model that changes a parameter must keep (00_scope.md R10): those of the dimensions and the widths,
and that the reset latch is LINKS with all four sticky flags clear and STICKY_MASK selects exactly bits 7, 6 and 4. The
layout is usable (D1). Everything else is free: NROWS, NCOLS and RECLEN within these, CLEAR_MASK, MARKER, LINKS, SENTINEL
and the two switches (D22, D24, D25, D2; log 27). -/
def Params.wf (c : Params) : Bool :=
  c.dimensionsAgree && c.formatsAgree && decide (c.statusReset = 0#4 ++ c.links) && decide (c.stickyMask = 0xD0#8) &&
    c.layout.wf

end Sys2Proof
end

