-- ==== Sys2Proof/Decode.lean ====
section
/-! DEFINITION. The decoder, written from the opcode map's match and mask columns (30_encoding.md R88, R89), and after
it the encoder, written from the word formats and their fields (R81 to R85). -/

namespace Sys2Proof

/-- Why a word decodes to no event. -/
inductive DecodeError
  /-- The word matches no row of the opcode map (30_encoding.md R88, refuse(ReservedEventWord)). -/
  | reservedEventWord
  deriving DecidableEq, Repr

/-- One row of the opcode map: a word w is the row's event when `w & mask = match`; `event` builds it from D = E[7:0]. -/
structure OpcodeRow where
  matchBits : EventWord
  mask : EventWord
  event : Byte → Instr

/-- The complete opcode map (30_encoding.md R88). -/
def opcodeMap : List OpcodeRow := [
  ⟨0x000#12, 0xFFF#12, fun _ => .rdStatus⟩,
  ⟨0x100#12, 0xFFF#12, fun _ => .rdRow⟩,
  ⟨0x200#12, 0xFFF#12, fun _ => .rdData⟩,
  ⟨0x300#12, 0xFFF#12, fun _ => .rdClear⟩,
  ⟨0x400#12, 0xF00#12, .wrStatus⟩,
  ⟨0x500#12, 0xF00#12, .wrRow⟩,
  ⟨0x600#12, 0xF00#12, .wrData⟩,
  ⟨0x700#12, 0xF00#12, .wrClear⟩,
  ⟨0x800#12, 0xFFF#12, fun _ => .poll⟩,
  ⟨0xC00#12, 0xFFF#12, fun _ => .reset⟩,
  ⟨0xD00#12, 0xFFF#12, fun _ => .enable⟩,
  ⟨0xE00#12, 0xFFF#12, fun _ => .disable⟩]

/-- The row's pattern fits the word. -/
def OpcodeRow.fits (r : OpcodeRow) (w : EventWord) : Bool := decide (w &&& r.mask = r.matchBits)

/-- The operand field D = E[7:0] (30_encoding.md R81). -/
def operandD (w : EventWord) : Byte := w.extractLsb' 0 8

/-- The event of the first row that fits, else refuse(ReservedEventWord). At most one row fits (30_encoding.md R89). -/
def firstFit : List OpcodeRow → EventWord → Except DecodeError Instr
  | [], _ => .error .reservedEventWord
  | r :: rows, w => if r.fits w then .ok (r.event (operandD w)) else firstFit rows w

/-- `decode(E)` = the row r with `(E & r.mask) = r.match`, else refuse(ReservedEventWord) (30_encoding.md R89). -/
def decode (w : EventWord) : Except DecodeError Instr := firstFit opcodeMap w

/-- The event word in a number of `nbits` bits, bit 0 its least significant: bits above 11 must be 0, since an event word
has 12 (30_encoding.md R80; log 19). -/
def tableWord (nbits w : Nat) : Option EventWord :=
  if w % 2 ^ nbits < 2 ^ 12 then some (BitVec.ofNat 12 (w % 2 ^ nbits)) else none

/-- What the decoder reads from a table word: the event, or none where it refuses (log 19). -/
def decodeTableWord (nbits w : Nat) : Option Instr :=
  match tableWord nbits w with
  | none => none
  | some e =>
    match decode e with
    | .ok i => some i
    | .error _ => none

/-! ### The encoder -/

/-- A port's offset A (20_memory.md R61). -/
def Port.offset : Port → PortOffset
  | .status => 0#2
  | .row => 1#2
  | .data => 2#2
  | .clear => 3#2

/-- The port a 2-bit offset selects; every offset selects one (20_memory.md R61). -/
def portOfOffset (a : PortOffset) : Port :=
  if a = 0#2 then .status else if a = 1#2 then .row else if a = 2#2 then .data else .clear

/-- A port's address on the host bus: the host's BASE plus the offset (20_memory.md R61, 60_exceptions.md R204). -/
def Port.hostAddress (p : Port) : Nat := Config.BASE + p.offset.toNat

/-- The offset A that reaches the block from a host address in the ports' window, which has one address for each value of
the port address; no other address reaches the block (20_memory.md R61). -/
def offsetOfHostAddress (c : Params) (addr : Nat) : Option PortOffset :=
  if Config.BASE ≤ addr ∧ addr < Config.BASE + 2 ^ c.portBits then some (BitVec.ofNat 2 (addr - Config.BASE)) else none

/-- The byte the data bus carries for a host value: "`value & 0xFF`" (00_scope.md R9, 20_memory.md R62). -/
def busByte (c : Params) (value : Nat) : Byte := BitVec.ofNat 8 (value % 2 ^ c.dataBits)

/-- The event of a host read of a port (40_register_access.md). -/
def Port.readEvent : Port → Instr
  | .status => .rdStatus
  | .row => .rdRow
  | .data => .rdData
  | .clear => .rdClear

/-- The event of a host write to a port (40_register_access.md). -/
def Port.writeEvent : Port → Byte → Instr
  | .status => .wrStatus
  | .row => .wrRow
  | .data => .wrData
  | .clear => .wrClear

/-- The event a host read of an address issues, if the address is the block's (20_memory.md R61). -/
def hostRead (c : Params) (addr : Nat) : Option Instr :=
  (offsetOfHostAddress c addr).map fun a => (portOfOffset a).readEvent

/-- The event a host write of a value to an address issues, if the address is the block's (20_memory.md R61, R62). -/
def hostWrite (c : Params) (addr value : Nat) : Option Instr :=
  (offsetOfHostAddress c addr).map fun a => (portOfOffset a).writeEvent (busByte c value)

/-- The OP code of a lifecycle operation (30_encoding.md R81). -/
def LifecycleOp.code : LifecycleOp → BitVec 2
  | .reset => 0#2
  | .enable => 1#2
  | .disable => 2#2

/-- Format BR, bus read: `00 AA 00000000` (30_encoding.md R82). -/
def formatBR (p : Port) : EventWord := 0#2 ++ p.offset ++ 0#8

/-- Format BW, bus write: `01 AA DDDDDDDD` (30_encoding.md R83). -/
def formatBW (p : Port) (d : Byte) : EventWord := 1#2 ++ p.offset ++ d

/-- Format PT, poll tick: `10 00 00000000` (30_encoding.md R84). -/
def formatPT : EventWord := 2#2 ++ 0#2 ++ 0#8

/-- Format LC, lifecycle: `11 OO 00000000` (30_encoding.md R85). -/
def formatLC (op : LifecycleOp) : EventWord := 3#2 ++ op.code ++ 0#8

/-- The event word of an event (30_encoding.md R82 to R85). -/
def encode : Instr → EventWord
  | .rdStatus => formatBR .status
  | .rdRow => formatBR .row
  | .rdData => formatBR .data
  | .rdClear => formatBR .clear
  | .wrStatus d => formatBW .status d
  | .wrRow d => formatBW .row d
  | .wrData d => formatBW .data d
  | .wrClear d => formatBW .clear d
  | .poll => formatPT
  | .reset => formatLC .reset
  | .enable => formatLC .enable
  | .disable => formatLC .disable

end Sys2Proof
end

