-- ==== Sys2Proof/Machine/State.lean ====
section
/-! DEFINITION. The state: the block's record (10_state.md R20), the inputs that stand beside an event, the parameters of
the run, and what the block gives the host. Also the two refusals of 60_exceptions.md R191, the empty fault type, and the
state after reset. -/

namespace Sys2Proof.Machine

/-- The RowBuffer as a list of (linear address, byte), addresses strictly rising, no entry equal to
`Memory.unlisted`: one list for each content (20_memory.md R74, 10_state.md R35; log 5). -/
abbrev Memory := List Host.Cell

/-- What an address the list does not name reads as. DESIGN CHOICE (log 5): it names a content, it does not choose one;
only `State.reset` rests on the value. -/
def Memory.unlisted : Byte := 0x00#8

/-- One payload, K bytes long (41_poll_bridge.md R143; `Feed.wf` says the length). -/
abbrev Payload := List Byte

/-- The inputs P[0..3] of a POLL, one for each of the NCHAN slots: a payload or nothing (41_poll_bridge.md R140, R143;
`Feed.wf` says the lengths). -/
abbrev Feed := List (Option Payload)

/-- No slot delivers (41_poll_bridge.md R147). -/
def Feed.absent (c : Params) : Feed := List.replicate c.nchan none

/-- An event as its agent issues it: the event word and what stands beside it. Only POLL reads `feed`
(30_encoding.md R84), only ENABLE reads `rb0` (R85). -/
structure Event where
  word : EventWord
  feed : Feed
  rb0 : Memory
  deriving DecidableEq, Repr

/-- The machine's state. The first fourteen fields are the block's whole state (10_state.md R20); the rest are the model's
own, not state of the block. -/
structure State where
  /-- The lifecycle mode (R21). -/
  enabled : Bool
  /-- StatusLatch bit 4, sticky (R24). -/
  fsyn : Bool
  /-- StatusLatch bit 5, sticky, set by nothing (R25). -/
  dew : Bool
  /-- StatusLatch bit 6, sticky (R26). -/
  dor : Bool
  /-- StatusLatch bit 7, sticky: the interrupt latch (R27). -/
  int : Bool
  /-- ControlState: the selected logical channel (R29). -/
  channel : Channel
  /-- ControlState: interruptsEnabled, ints_en (R30). -/
  intsEn : Bool
  /-- ControlState: adapterOutputEnabled, out_en (R31). -/
  outEn : Bool
  /-- ControlState: AFC enable, inert, afc_en (R32). -/
  afcEn : Bool
  /-- ControlState: mystery links B, inert, links_b (R32). -/
  linksB : Bool
  /-- Cursor: row_ptr (R33), as wide as the parameter `rowBits` says: 4 bits, 0..15, by default (`State.Inv` says so). -/
  rowPtr : Nat
  /-- Cursor: col_ptr (R34), as wide as the parameter `colBits` says: 6 bits, 0..63, by default (`State.Inv` says so). -/
  colPtr : Nat
  /-- The RowBuffer RB (R35). -/
  rb : Memory
  /-- The level of the interrupt output line (R36). -/
  irq : Bool
  /-- The model's own: the parameters of the run. No event writes them (R37 (c); log 7). -/
  cfg : Params
  /-- The model's own: `past_end`, the refusal bookkeeping of index_policy = refuse (R34; log 24). -/
  pastEnd : Bool
  /-- The model's own: the byte the latest event returned to the host, if it returned one (00_scope.md R13; log 6). -/
  returned : Option Byte
  /-- The model's own: the inputs P[0..3] beside the event being run (R37 (a); log 3). -/
  feed : Feed
  /-- The model's own: the input rb0 beside the event being run (R37 (b), R47; log 3). -/
  rb0 : Memory
  /-- The model's own: the events the agents issue from here on, the next first (20_memory.md R68; log 1). -/
  pending : List Event
  deriving DecidableEq, Repr

/-- The reasons for which the machine faults: none. "No event faults, traps, retries or reports an error"
(60_exceptions.md R190); "exactly two refusal reasons and no fault reasons" (R191). -/
inductive Fault
  deriving DecidableEq, Repr

/-- The reasons for which a step is refused (60_exceptions.md R191). -/
inductive Refusal
  /-- Raised by `exec`'s arm of an event that has no meaning yet. No arm raises it. Safe: the run stops. -/
  | notModelled (mnemonic : String)
  /-- Raised by `step` when the event word matches no row of the opcode map (30_encoding.md R88). Safe: the run stops. -/
  | reservedEventWord
  /-- Raised under `index_policy = refuse` only: by WR ROW with D ≥ NROWS, and by a Data access while `pastEnd` is set
  (92_eei_decisions.md D2, D3). Safe: the run stops. -/
  | indexOutOfRange
  deriving DecidableEq, Repr

/-- What running one event answers (00_scope.md R13). -/
abbrev Result := Host.Outcome State Fault Refusal

/-- The machine after power-on, before any lifecycle event: `enabled` = false and `irq` = false (10_state.md R48). The
spec leaves every other field unspecified there; each stands at its reset value of R46, the RowBuffer with nothing
listed (DESIGN CHOICE, logs 4 and 5). The parameters are the spec's defaults, no event is pending. -/
def State.reset : State where
  enabled := false
  fsyn := false
  dew := false
  dor := false
  int := false
  channel := 0#2
  intsEn := false
  outEn := false
  afcEn := false
  linksB := false
  rowPtr := 0
  colPtr := 0
  rb := []
  irq := false
  cfg := Config.standard
  pastEnd := false
  returned := none
  feed := Feed.absent Config.standard
  rb0 := []
  pending := []

end Sys2Proof.Machine
end

