-- ==== Sys2Proof/Machine/Operands.lean ====
section
/-! DEFINITION. Operand assembly: the fields of a written byte (30_encoding.md R86, R87). -/

namespace Sys2Proof.Machine

/-- The channel field of a Status write (10_state.md R42). -/
def channelField (l : StatusLayout) (d : Byte) : Channel := d.extractLsb' l.channel 2

/-- A one-bit field of a Status write (10_state.md R42). -/
def bitField (n : Nat) (d : Byte) : Bool := d.getLsbD n

/-- The row of a Row write: the low bits of D that the row pointer holds, D[3:0] by default (30_encoding.md R86;
92_eei_decisions.md D2). -/
def rowField (c : Params) (d : Byte) : Nat := d.toNat % 2 ^ c.rowBits

/-- A Row write names no row of the RowBuffer: D ≥ NROWS, 16 by default (92_eei_decisions.md D2, 60_exceptions.md
R191). -/
def rowOutOfRange (c : Params) (d : Byte) : Bool := decide (c.nrows ≤ d.toNat)

/-- One field's value in place: `v << n`. -/
def placed (v : Bool) (n : Nat) : Byte := (BitVec.ofBool v).setWidth 8 <<< n

/-- The byte of a Status write, assembled from its fields (30_encoding.md R87), each at its place in the layout. -/
def statusWr (l : StatusLayout) (ch : Channel) (out ints afc lb : Bool) : Byte :=
  placed lb l.linksB ||| placed afc l.afcEn ||| placed ints l.intsEn ||| placed out l.outEn |||
    ch.setWidth 8 <<< l.channel

end Sys2Proof.Machine
end

