-- ==== Sys2Proof/Machine/Flags.lean ====
section
/-! DEFINITION. The StatusLatch and the interrupt line: the status byte, the latch's three updates, and the two ways the
line is computed (10_state.md R22 to R28, R36; 40_register_access.md R101; 41_poll_bridge.md R149). -/

namespace Sys2Proof.Machine

/-- `status_byte(s) = { int, dor, dew, fsyn, LINKS }` (10_state.md R22). -/
def statusByte (s : State) : Byte :=
  BitVec.ofBool s.int ++ BitVec.ofBool s.dor ++ BitVec.ofBool s.dew ++ BitVec.ofBool s.fsyn ++ s.cfg.links

/-- `status |= m`: the flags among the mask's bits go up (41_poll_bridge.md R140 step 2). Bits 3:0 are no state (R23). -/
def State.setFlags (s : State) (m : Byte) : State :=
  { s with
    fsyn := s.fsyn || m.getLsbD 4
    dew := s.dew || m.getLsbD 5
    dor := s.dor || m.getLsbD 6
    int := s.int || m.getLsbD 7 }

/-- `status & ~m`: the flags among the mask's bits go down (40_register_access.md R108). -/
def State.clearFlags (s : State) (m : Byte) : State :=
  { s with
    fsyn := s.fsyn && !m.getLsbD 4
    dew := s.dew && !m.getLsbD 5
    dor := s.dor && !m.getLsbD 6
    int := s.int && !m.getLsbD 7 }

/-- The latch reloaded: `StatusLatch = v` (42_lifecycle.md R170, R172). -/
def State.loadFlags (s : State) (v : Byte) : State :=
  { s with
    fsyn := v.getLsbD 4
    dew := v.getLsbD 5
    dor := v.getLsbD 6
    int := v.getLsbD 7 }

/-- `irq_cond(s) = ints_en ∧ (int = 1)` (40_register_access.md R101). -/
def irqCond (s : State) : Bool := s.intsEn && s.int

/-- The level after POLL's interrupt step, from the state after its latch step (41_poll_bridge.md R149; the recompute
alternative is 92_eei_decisions.md D25, read after the latch step: log 10). -/
def pollIrq (s : State) : Bool :=
  match s.cfg.pollIrqMode with
  | .unconditional => s.irq || s.intsEn
  | .recompute => irqCond s

end Sys2Proof.Machine
end

