-- ==== Sys2Proof/Machine/Ops.lean ====
section
/-! DEFINITION. The operations the events share: the RowBuffer's byte primitives (20_memory.md R74), the cursor
(10_state.md R33, R34), the disabled gate (40_register_access.md R100), loading the reset values (10_state.md R46), and
taking the next event with its inputs. The block takes no exception (60_exceptions.md R190, R199): there is no entry and
no return to share; its whole part in an interrupt is the level `irq`. -/

namespace Sys2Proof.Machine

/-! ### The RowBuffer -/

/-- `MemRead(a, 1)`: the byte at a linear address (20_memory.md R74). -/
def Memory.read : Memory → Nat → Byte
  | [], _ => Memory.unlisted
  | (k, v) :: rest, a => if k = a then v else Memory.read rest a

/-- `MemWrite(a, 1, v)`: the memory with one byte replaced (20_memory.md R74), in canonical form: an entry equal to `Memory.unlisted` is not kept. -/
def Memory.write : Memory → Nat → Byte → Memory
  | [], a, v => if v = Memory.unlisted then [] else [(a, v)]
  | (k, w) :: rest, a, v =>
    if a < k then
      if v = Memory.unlisted then (k, w) :: rest else (a, v) :: (k, w) :: rest
    else if a = k then
      if v = Memory.unlisted then rest else (a, v) :: rest
    else (k, w) :: Memory.write rest a v

/-- The canonical form from address `lo` on: addresses at least `lo`, strictly rising, below the size, and no entry equal
to `Memory.unlisted`. -/
def Memory.wfFrom (size : Nat) : Nat → Memory → Bool
  | _, [] => true
  | lo, (k, v) :: rest =>
    decide (lo ≤ k) && decide (k < size) && decide (v ≠ Memory.unlisted) && Memory.wfFrom size (k + 1) rest

/-- The RowBuffer is in canonical form and names no address past its NROWS·NCOLS bytes (20_memory.md R60). -/
def Memory.wf (c : Params) (m : Memory) : Bool := Memory.wfFrom c.rbSize 0 m

/-- `rb_addr(r, c) = r * NCOLS + c` (20_memory.md R74). -/
def rbAddr (c : Params) (row col : Nat) : Nat := row * c.ncols + col

/-! ### The cursor -/

/-- The RowBuffer address the cursor selects (10_state.md R33, R34). -/
def State.cursorAddr (s : State) : Nat := rbAddr s.cfg s.rowPtr s.colPtr

/-- The column after one Data access: one further, in the column pointer's width, so modulo 64 by default (10_state.md
R34; D3). -/
def nextCol (c : Params) (col : Nat) : Nat := (col + 1) % 2 ^ c.colBits

/-- A Data access moves the column on by one within its row (10_state.md R34; D3). Under index_policy = refuse the step
from the last column to 0 sets `past_end` (R34). -/
def State.advanceCol (s : State) : State :=
  { s with
    colPtr := nextCol s.cfg s.colPtr
    pastEnd := s.pastEnd || (decide (s.cfg.indexPolicy = .refuse) && decide (s.colPtr + 1 = s.cfg.ncols)) }

/-- A Row write loads the row, homes the column and clears `past_end` (40_register_access.md R105, 10_state.md R34). -/
def State.seekRow (s : State) (r : Nat) : State :=
  { s with rowPtr := r, colPtr := 0, pastEnd := false }

/-- A Row write of D is refused: index_policy = refuse and D ≥ NROWS (60_exceptions.md R191). -/
def State.refusesRow (s : State) (d : Byte) : Bool :=
  decide (s.cfg.indexPolicy = .refuse) && rowOutOfRange s.cfg d

/-- A Data access is refused: index_policy = refuse and `past_end` is set (60_exceptions.md R191). -/
def State.refusesData (s : State) : Bool :=
  decide (s.cfg.indexPolicy = .refuse) && s.pastEnd

/-! ### The bus -/

/-- The byte a bus read gives the host (00_scope.md R12, R13). -/
def State.answer (s : State) (v : Byte) : State := { s with returned := some v }

/-- The disabled gate of a bus read: `SENTINEL` and no change (40_register_access.md R100). -/
def gateRead (s : State) (enabledResult : Result) : Result :=
  if s.enabled then enabledResult else .next (s.answer s.cfg.sentinel)

/-- The disabled gate of every other gated event: no change (40_register_access.md R100; 41_poll_bridge.md R142;
42_lifecycle.md R171, R172). -/
def gate (s : State) (enabledResult : Result) : Result :=
  if s.enabled then enabledResult else .next s

/-- One byte of the RowBuffer replaced at the cursor (host port, 20_memory.md R73). -/
def State.storeAtCursor (s : State) (d : Byte) : State := { s with rb := s.rb.write s.cursorAddr d }

/-- A Clear access: the flags of CLEAR_MASK go down and the line goes off (40_register_access.md R108, R109). -/
def State.clearAccess (s : State) : State := { s.clearFlags s.cfg.clearMask with irq := false }

/-- A Status write loads the ControlState (40_register_access.md R103). The channel is loaded whether or not it changes:
"A model may write `channel <- D[1:0]` unconditionally". -/
def State.loadControl (s : State) (d : Byte) : State :=
  { s with
    channel := channelField s.cfg.layout d
    outEn := bitField s.cfg.layout.outEn d
    intsEn := bitField s.cfg.layout.intsEn d
    afcEn := bitField s.cfg.layout.afcEn d
    linksB := bitField s.cfg.layout.linksB d }

/-- The line is recomputed: `irq <- irq_cond(s)` (40_register_access.md R101). -/
def State.recomputeIrq (s : State) : State := { s with irq := irqCond s }

/-! ### Lifecycle -/

/-- Every field but `enabled` and the RowBuffer at its reset value (10_state.md R46). -/
def State.loadResetValues (s : State) : State :=
  { s.loadFlags s.cfg.statusReset with
    channel := 0#2
    intsEn := false
    outEn := false
    afcEn := false
    linksB := false
    rowPtr := 0
    colPtr := 0
    irq := false
    pastEnd := false }

/-! ### Taking an event -/

/-- The inputs of a POLL are what R143 says: one for each slot, and every payload K bytes long (41_poll_bridge.md). -/
def Feed.wf (c : Params) (f : Feed) : Bool :=
  decide (f.length = c.nchan) && f.all fun p =>
    match p with
    | none => true
    | some bytes => decide (bytes.length = c.k)

/-- The inputs beside an event are what the spec says: K-byte payloads (R143), a RowBuffer content (10_state.md R47). -/
def Event.wf (c : Params) (e : Event) : Bool := Feed.wf c e.feed && Memory.wf c e.rb0

/-- An event starts: its inputs stand on the input lines, and nothing has been returned for it yet (30_encoding.md R84,
R85; logs 3 and 6). -/
def State.takeInputs (s : State) (e : Event) : State :=
  { s with feed := e.feed, rb0 := e.rb0, returned := none }

/-- The events that remain to be run. -/
def State.withPending (s : State) (es : List Event) : State := { s with pending := es }

/-- The event a table word is placed as, with the inputs that stand on the input lines. A number with a bit above bit 11
is no event word; it is placed as the reserved word 0xFFF, which is refused as well (log 19). -/
def State.eventOfTableWord (s : State) (nbits w : Nat) : Event :=
  { word := (tableWord nbits w).getD 0xFFF#12, feed := s.feed, rb0 := s.rb0 }

end Sys2Proof.Machine
end

