-- ==== Sys2Proof/Machine/Lifecycle.lean ====
section
/-! DEFINITION. The meanings of the three lifecycle events (42_lifecycle.md). -/

namespace Sys2Proof.Machine

/-- RESET (R172): the reset values, the RowBuffer kept; nothing while disabled (92_eei_decisions.md D8). -/
def execReset (s : State) : Result := gate s (.next s.loadResetValues)

/-- ENABLE (R170): from the disabled mode, the reset values and the RowBuffer from the free input rb0; nothing while
enabled (92_eei_decisions.md D9). -/
def execEnable (s : State) : Result :=
  if s.enabled then .next s else .next { s.loadResetValues with enabled := true, rb := s.rb0 }

/-- DISABLE (R171): the mode goes off and every other field, `irq` too, keeps its value (92_eei_decisions.md D10). -/
def execDisable (s : State) : Result := gate s (.next { s with enabled := false })

end Sys2Proof.Machine
end

