-- ==== Sys2Proof/Machine/PollBridge.lean ====
section
/-! DEFINITION. POLL: the data-ready latch, the channel multiplexer, the row merge and the interrupt step
(41_poll_bridge.md). -/

namespace Sys2Proof.Machine

/-- What slot n delivers this tick: only the NCHAN slots exist (R140, R143). -/
def slotPayload (c : Params) (f : Feed) (n : Nat) : Option Payload := (f.take c.nchan)[n]?.join

/-- Some slot delivered a payload this tick (R140 step 2, R146). -/
def anyPayload (c : Params) (f : Feed) : Bool := (f.take c.nchan).any Option.isSome

/-- The channel multiplexer: logical channel c is fed by slot c (R141; 92_eei_decisions.md D12). -/
def selectedPayload (s : State) : Option Payload := slotPayload s.cfg s.feed s.channel.toNat

/-- Byte n of a payload. A payload has all K bytes (R143); a byte it does not have is a free value (log 26). -/
def payloadByte (p : Payload) (n : Nat) : Byte := p[n]?.getD (Config.missingByte n)

/-- Byte j of row record i is payload byte RECLEN·i + j (R144, 20_memory.md R63 (a)). -/
def recordByte (c : Params) (p : Payload) (i j : Nat) : Byte := payloadByte p (c.reclen * i + j)

/-- Row i refreshed: MARKER at column 0, the record's RECLEN bytes at columns 1..RECLEN (R140 step 3). -/
def refreshRow (c : Params) (p : Payload) (m : Memory) (i : Nat) : Memory :=
  (List.range c.reclen).foldl (fun m' j => m'.write (rbAddr c i (1 + j)) (recordByte c p i j))
    (m.write (rbAddr c i 0) c.marker)

/-- Row i merged: refreshed when its record's first byte is non-zero, else left as it is (R145). -/
def mergeRow (c : Params) (p : Payload) (m : Memory) (i : Nat) : Memory :=
  if recordByte c p i 0 = 0x00#8 then m else refreshRow c p m i

/-- The NROWS rows merged, row 0 first (R140 step 3). -/
def mergePayload (c : Params) (p : Payload) (m : Memory) : Memory := (List.range c.nrows).foldl (mergeRow c p) m

/-- Step 2, the data-ready latch: set by a payload on any slot (R140, R146). -/
def State.latchDataReady (s : State) : State :=
  if anyPayload s.cfg s.feed then s.setFlags s.cfg.stickyMask else s

/-- The RowBuffer after step 3: merged from the selected channel when the output is enabled (R140, R145). -/
def mergedRb (s : State) : Memory :=
  if s.outEn then
    match selectedPayload s with
    | some p => mergePayload s.cfg p s.rb
    | none => s.rb
  else s.rb

/-- POLL (R140). The payloads of the other channels are discarded (R141); the cursor and the ControlState stay. -/
def execPoll (s : State) : Result :=
  gate s (.next { s.latchDataReady with rb := mergedRb s, irq := pollIrq s.latchDataReady })

end Sys2Proof.Machine
end

