-- ==== Sys2Proof/Machine/Registers.lean ====
section
/-! DEFINITION. The meanings of the eight host bus events (40_register_access.md). -/

namespace Sys2Proof.Machine

/-- RD STATUS (R102): the latch as it is, no side effect. -/
def execRdStatus (s : State) : Result := gateRead s (.next (s.answer (statusByte s)))

/-- RD ROW (R104): 0x00, whatever the row pointer holds (90_conflicts.md C12). -/
def execRdRow (s : State) : Result := gateRead s (.next (s.answer 0x00#8))

/-- RD DATA (R106): the byte at the cursor, then the column moves on. -/
def execRdData (s : State) : Result :=
  gateRead s (if s.refusesData then .refused .indexOutOfRange
    else .next (s.advanceCol.answer (s.rb.read s.cursorAddr)))

/-- RD CLEAR (R108): the Clear access; returns 0x00 (92_eei_decisions.md D4). -/
def execRdClear (s : State) : Result := gateRead s (.next (s.clearAccess.answer 0x00#8))

/-- WR STATUS (R103): the ControlState is loaded, then the line is recomputed from the new state. -/
def execWrStatus (d : Byte) (s : State) : Result := gate s (.next (s.loadControl d).recomputeIrq)

/-- WR ROW (R105): the row is loaded, the column is homed. -/
def execWrRow (d : Byte) (s : State) : Result :=
  gate s (if s.refusesRow d then .refused .indexOutOfRange else .next (s.seekRow (rowField s.cfg d)))

/-- WR DATA (R107): D is stored at the cursor, then the column moves on. -/
def execWrData (d : Byte) (s : State) : Result :=
  gate s (if s.refusesData then .refused .indexOutOfRange else .next (s.storeAtCursor d).advanceCol)

/-- WR CLEAR (R109): the Clear access; D is not used. -/
def execWrClear (_d : Byte) (s : State) : Result := gate s (.next s.clearAccess)

end Sys2Proof.Machine
end

