-- ==== Sys2Proof/Machine/Dispatch.lean ====
section
/-! DEFINITION. One arm per event, each one call of its meaning. -/

namespace Sys2Proof.Machine

def exec (i : Instr) (s : State) : Host.Outcome State Fault Refusal :=
  match i with
  | .rdStatus => Sys2Proof.Machine.execRdStatus s
  | .rdRow => Sys2Proof.Machine.execRdRow s
  | .rdData => Sys2Proof.Machine.execRdData s
  | .rdClear => Sys2Proof.Machine.execRdClear s
  | .wrStatus d => Sys2Proof.Machine.execWrStatus d s
  | .wrRow d => Sys2Proof.Machine.execWrRow d s
  | .wrData d => Sys2Proof.Machine.execWrData d s
  | .wrClear d => Sys2Proof.Machine.execWrClear d s
  | .poll => Sys2Proof.Machine.execPoll s
  | .reset => Sys2Proof.Machine.execReset s
  | .enable => Sys2Proof.Machine.execEnable s
  | .disable => Sys2Proof.Machine.execDisable s

end Sys2Proof.Machine
end

