-- ==== Sys2Proof/Machine/Step.lean ====
section
/-! DEFINITION. One step: the next pending event is taken, with its inputs, and runs as one atomic transition
(20_memory.md R66, R68). With no event pending the block waits (70_reset_and_hazards.md R220). -/

namespace Sys2Proof.Machine

/-- One event run on a state: its inputs are taken, its word is decoded, and its meaning runs; a reserved word is refused
(30_encoding.md R88). -/
def stepEvent (e : Event) (s : State) : Host.Outcome State Fault Refusal :=
  match decode e.word with
  | .ok i => exec i (s.takeInputs e)
  | .error .reservedEventWord => .refused .reservedEventWord

/-- One step of the machine. -/
def step (s : State) : Host.Outcome State Fault Refusal :=
  match s.pending with
  | [] => .next s
  | e :: rest => stepEvent e (s.withPending rest)

/-- The fold of a list of events over a state, stopping at the first refusal (20_memory.md R68). -/
def runEvents : List Event → State → Host.Outcome State Fault Refusal
  | [], s => .next s
  | e :: es, s =>
    match stepEvent e s with
    | .next s' => runEvents es s'
    | .fault r => .fault r
    | .refused r => .refused r

/-- The fold of a list of decoded events over a state, each with the inputs that stand on the input lines. -/
def runInstrs : List Instr → State → Host.Outcome State Fault Refusal
  | [], s => .next s
  | i :: is, s =>
    match exec i s with
    | .next s' => runInstrs is s'
    | .fault r => .fault r
    | .refused r => .refused r

/-- The state with a table word as its next pending event: an agent issues it, with the inputs that stand on the input
lines (log 2, log 19). -/
def State.withFetchWord (s : State) (nbits w : Nat) : State :=
  s.withPending (s.eventOfTableWord nbits w :: s.pending)

end Sys2Proof.Machine
end

