-- ==== Sys2Proof/Machine/Pseudo.lean ====
section
/-! DEFINITION. The expansions of the pseudo-instructions (30_encoding.md R92). -/

namespace Sys2Proof.Machine

/-- The events a pseudo-instruction stands for (R92). -/
def pseudoInstrs (c : Params) : Pseudo → List Instr
  | .select ch out ints => [.wrStatus (statusWr c.layout ch out ints false false)]
  | .seek r => [.wrRow r]
  | .ack => [.wrClear 0x00#8]
  | .put bytes => bytes.map .wrData
  | .get n => List.replicate n .rdData
  | .readRow r n => .wrRow r :: List.replicate n .rdData
  | .idle => [.poll]

/-- An event with nothing beside its word: every slot absent, as IDLE has it (R92). -/
def quietEvent (c : Params) (i : Instr) : Event := { word := encode i, feed := Feed.absent c, rb0 := [] }

/-- The pending events of a pseudo-instruction. -/
def pseudoEvents (c : Params) (p : Pseudo) : List Event := (pseudoInstrs c p).map (quietEvent c)

end Sys2Proof.Machine
end

