-- ==== Sys2Proof/Safety.lean ====
section
/-! DEFINITION. The terms claims use: the invariant, power-on, reachable states, and a safe step. -/

namespace Sys2Proof.Machine

/-- The invariant of the machine. -/
structure State.Inv (s : State) : Prop where
  /-- The parameters keep the equalities of 00_scope.md R10. -/
  cfgWf : s.cfg.wf = true
  /-- The row pointer names a row (10_state.md R33). -/
  rowInRange : s.rowPtr < s.cfg.nrows
  /-- The column pointer names a column (10_state.md R34). -/
  colInRange : s.colPtr < s.cfg.ncols
  /-- The RowBuffer is in canonical form, within its NROWS·NCOLS bytes. -/
  rbWf : s.rb.wf s.cfg = true
  /-- So is the content offered to ENABLE by the event being run. -/
  rb0Wf : s.rb0.wf s.cfg = true
  /-- The payloads offered to POLL by the event being run have K bytes each (41_poll_bridge.md R143). -/
  feedWf : s.feed.wf s.cfg = true
  /-- So it is for the inputs beside every pending event. -/
  pendingWf : ∀ e ∈ s.pending, e.wf s.cfg = true
  /-- The line is asserted only while interrupts are enabled (60_exceptions.md R196). -/
  irqNeedsIntsEn : s.irq = true → s.intsEn = true
  /-- DEW stays 0 while the block is enabled (10_state.md R25). -/
  dewStaysClear : s.enabled = true → s.dew = false
  /-- `past_end` does not exist under the mask policy (10_state.md R34). -/
  pastEndNeedsRefuse : s.cfg.indexPolicy = .mask → s.pastEnd = false

/-- Power-on, before any lifecycle event: disabled and the line deasserted, every other field any value
(10_state.md R48). -/
def State.PowerOn (s : State) : Prop := s.enabled = false ∧ s.irq = false

/-- The state is reached from some power-on state by some list of events, in any interleaving (20_memory.md R68). -/
def State.Reachable (s : State) : Prop :=
  ∃ (s0 : State) (es : List Event), s0.PowerOn ∧ runEvents es s0 = .next s

/-- The word of the event is no reserved word (30_encoding.md R88). -/
def Event.Legal (e : Event) : Prop := ∃ i, decode e.word = .ok i

/-- The run goes on: the step answers a next state. -/
def State.SafeStep (s : State) : Prop := ∃ s', step s = .next s'

end Sys2Proof.Machine
end

