-- ==== Sys2Proof/Certificates/Slice0/Obligations.lean ====
section
/-! DEFINITION. The statements for the provers. A statement that says D<n> rests on a decision of 92_eei_decisions.md, not
on the source document; one that says "log n" rests on a choice of the model. The parameters of R9 stand by their names
(D22): `cfg.wf` is what R10 asks of them, and `DefaultParametersAgree` has their defaults. -/

open Sys2Proof Sys2Proof.Machine

/-! ### Encoding -/

/-- R81 to R85, R88 (D15): decoding an encoded event gives it back, with its operand at every value. -/
def Obligations.DecodeOfEncodeIsTheEvent : Prop :=
  ∀ i : Instr, i.wf = true → decode (encode i) = .ok i

/-- R88, R89 (D15): each word has one meaning, so the word is the encoding of what it decodes to. -/
def Obligations.EncodeOfDecodeIsTheWord : Prop :=
  ∀ (w : EventWord) (i : Instr), decode w = .ok i → encode i = w

/-- R89: no word fits two rows of the opcode map, and a word is refused exactly when it fits none. -/
def Obligations.OpcodeRowsAreDisjoint : Prop :=
  (∀ w : EventWord, ∀ r ∈ opcodeMap, ∀ r' ∈ opcodeMap, r.fits w = true → r'.fits w = true →
    r.matchBits = r'.matchBits ∧ r.mask = r'.mask) ∧
  ∀ w : EventWord, decode w = .error .reservedEventWord ↔ ∀ r ∈ opcodeMap, r.fits w = false

/-- R88: the reserved words are the reads with D ≠ 0, the poll words but 0x800, the lifecycle words with D ≠ 0, and all of
OP = 11. -/
def Obligations.ReservedWordsAreExactlyTheListed : Prop :=
  ∀ w : EventWord, decode w = .error .reservedEventWord ↔
    (w.toNat < 0x400 ∧ w.toNat % 0x100 ≠ 0) ∨
    (0x801 ≤ w.toNat ∧ w.toNat ≤ 0xBFF) ∨
    (0xC00 ≤ w.toNat ∧ w.toNat < 0xF00 ∧ w.toNat % 0x100 ≠ 0) ∨
    0xF00 ≤ w.toNat

/-- The encoding vectors of 95_test_vectors.md Part 2 (sanity). -/
def Obligations.EncodingVectorsDecode : Prop :=
  decode 0x000#12 = .ok .rdStatus ∧ decode 0x100#12 = .ok .rdRow ∧ decode 0x200#12 = .ok .rdData ∧
  decode 0x300#12 = .ok .rdClear ∧ decode 0x40C#12 = .ok (.wrStatus 0x0C#8) ∧
  decode 0x513#12 = .ok (.wrRow 0x13#8) ∧ decode 0x6FF#12 = .ok (.wrData 0xFF#8) ∧
  decode 0x7FF#12 = .ok (.wrClear 0xFF#8) ∧ decode 0x800#12 = .ok .poll ∧ decode 0xC00#12 = .ok .reset ∧
  decode 0xD00#12 = .ok .enable ∧ decode 0xE00#12 = .ok .disable ∧
  decode 0x201#12 = .error .reservedEventWord ∧ decode 0x3FF#12 = .error .reservedEventWord ∧
  decode 0x801#12 = .error .reservedEventWord ∧ decode 0xBFF#12 = .error .reservedEventWord ∧
  decode 0xC01#12 = .error .reservedEventWord ∧ decode 0xF00#12 = .error .reservedEventWord ∧
  decode 0xFFF#12 = .error .reservedEventWord

/-- R86, R87, for every usable STATUS_WR_LAYOUT (D1): the byte assembled from the fields gives every field back. -/
def Obligations.StatusWriteByteCarriesItsFields : Prop :=
  ∀ (l : StatusLayout) (ch : Channel) (out ints afc lb : Bool), l.wf = true →
    channelField l (statusWr l ch out ints afc lb) = ch ∧
    bitField l.outEn (statusWr l ch out ints afc lb) = out ∧
    bitField l.intsEn (statusWr l ch out ints afc lb) = ints ∧
    bitField l.afcEn (statusWr l ch out ints afc lb) = afc ∧
    bitField l.linksB (statusWr l ch out ints afc lb) = lb

/-! ### Steps and runs -/

/-- A step with an event pending whose word decodes to i is i's meaning, on the state with that event taken: the rest of
the events pending, the event's inputs on the input lines, nothing returned yet (R68, R84, R85; logs 1, 3, 6). -/
def Obligations.StepRunsTheDecodedEvent : Prop :=
  ∀ (s : State) (e : Event) (rest : List Event) (i : Instr),
    s.pending = e :: rest → decode e.word = .ok i →
    step s = exec i { s with pending := rest, feed := e.feed, rb0 := e.rb0, returned := none }

/-- R88, R191 (D16): a pending reserved word is refused, under that name. -/
def Obligations.StepRefusesReservedWords : Prop :=
  ∀ (s : State) (e : Event) (rest : List Event),
    s.pending = e :: rest → decode e.word = .error .reservedEventWord → step s = .refused .reservedEventWord

/-- R220: with no event the block waits. The model's choice (log 1): a step with no event pending changes nothing. -/
def Obligations.StepWaitsWithoutEvents : Prop :=
  ∀ s : State, s.pending = [] → step s = .next s

/-- A run is the fold of its events (R68). That the events are a list pending in State, of which a step takes the oldest, is
the model's choice (log 1); so is that a run stops at a refusal (log 17). Running as many steps as there are events in any
list pending first gives what folding that list over the state gives, the later events still pending. -/
def Obligations.RunIsTheFoldOfItsEvents : Prop :=
  ∀ (s : State) (es rest : List Event), s.pending = es ++ rest →
    Host.Core.run Sys2Proof.core es.length s =
      (match runEvents es { s with pending := [] } with
      | .next t => .next { t with pending := rest }
      | .fault r => .fault r
      | .refused r => .refused r : Host.Outcome State Fault Refusal)

/-- R37 (c): the parameters are fixed for a run. -/
def Obligations.NoStepChangesTheParameters : Prop :=
  ∀ s t : State, step s = .next t → t.cfg = s.cfg

/-- R9, R10: every parameter's default is the document's value, and those values keep R10's equalities. The last two
conjuncts are decisions: index_policy = mask (D2, D3; log 9) and the default STATUS_WR_LAYOUT (D1; log 8, PRESUMED). -/
def Obligations.DefaultParametersAgree : Prop :=
  (Config.standard.nrows = 16 ∧ Config.standard.ncols = 64 ∧ Config.standard.nchan = 4 ∧
    Config.standard.reclen = 42 ∧ Config.standard.k = 672 ∧ Config.standard.marker = 0x27#8 ∧
    Config.standard.links = 0xF#4 ∧ Config.standard.sentinel = 0xFF#8 ∧ Config.standard.stickyMask = 0xD0#8 ∧
    Config.standard.clearMask = 0xD0#8 ∧ Config.standard.pollIrqMode = .unconditional ∧
    Config.standard.statusReset = 0x0F#8 ∧ Config.standard.dataBits = 8 ∧ Config.standard.portBits = 2 ∧
    Config.standard.rowBits = 4 ∧ Config.standard.colBits = 6) ∧
  (Config.standard.k = Config.standard.nrows * Config.standard.reclen ∧
    1 + Config.standard.reclen ≤ Config.standard.ncols ∧
    Config.standard.statusReset = 0#4 ++ Config.standard.links ∧
    (∀ n : Fin 8, Config.standard.stickyMask[n] = true ↔ n = 7 ∨ n = 6 ∨ n = 4) ∧ Config.standard.wf = true) ∧
  Config.standard.indexPolicy = .mask ∧
  Config.standard.layout = { channel := 0, outEn := 2, intsEn := 3, afcEn := 4, linksB := 5 }

/-! ### The disabled mode -/

/-- R100: while disabled every bus read returns SENTINEL (0xFF by default), every bus write does nothing, and in both
cases no field of the block changes. -/
def Obligations.DisabledBusEventsAreInert : Prop :=
  (∀ (s : State) (i : Instr), s.enabled = false → i.isRead = true →
    exec i s = .next { s with returned := some s.cfg.sentinel }) ∧
  (∀ (s : State) (d : Byte), s.enabled = false →
    exec (.wrStatus d) s = .next s ∧ exec (.wrRow d) s = .next s ∧ exec (.wrData d) s = .next s ∧
    exec (.wrClear d) s = .next s) ∧
  Config.standard.sentinel = 0xFF#8

/-- R48, R142, R171, R172, R207 (D8, D9, D11): from a disabled state, a step whose event is not ENABLE goes on and
changes no field of the block; only the model's own record of the event moves. -/
def Obligations.OnlyEnableWakesTheBlock : Prop :=
  ∀ (s : State) (e : Event) (rest : List Event) (i : Instr), s.enabled = false →
    s.pending = e :: rest → decode e.word = .ok i → i ≠ .enable →
    step s = .next { s with
      pending := rest
      feed := e.feed
      rb0 := e.rb0
      returned := if i.isRead then some s.cfg.sentinel else none }

/-! ### The Status port -/

/-- R102: RD STATUS returns { int, dor, dew, fsyn, LINKS } and changes nothing of the block; it is word 0x000; right after
RESET or ENABLE the byte is 0x0F; after a POLL with any payload, and whenever the three flags stand, it is 0xDF. That bit
5 reads 0 in every state of the invariant is no plain word of the source: R25 infers it (90_conflicts.md C2), and the
model takes the inference (log 25, DEDUCED). -/
def Obligations.StatusReadReturnsTheLatch : Prop :=
  decode 0x000#12 = .ok .rdStatus ∧
  (∀ s : State, s.enabled = true → ∃ v : Byte,
    exec .rdStatus s = .next { s with returned := some v } ∧
    v.getLsbD 7 = s.int ∧ v.getLsbD 6 = s.dor ∧ v.getLsbD 5 = s.dew ∧ v.getLsbD 4 = s.fsyn ∧
    v.extractLsb' 0 4 = s.cfg.links ∧ (s.Inv → v.getLsbD 5 = false)) ∧
  (∀ s : State, s.enabled = true → s.cfg = Config.standard → s.fsyn = true → s.dor = true → s.int = true →
    s.dew = false → exec .rdStatus s = .next { s with returned := some 0xDF#8 }) ∧
  (∀ s : State, s.enabled = true → s.cfg = Config.standard →
    ∃ t, runInstrs [.reset, .rdStatus] s = .next t ∧ t.returned = some 0x0F#8) ∧
  (∀ s : State, s.enabled = false → s.cfg = Config.standard →
    ∃ t, runInstrs [.enable, .rdStatus] s = .next t ∧ t.returned = some 0x0F#8) ∧
  (∀ (s : State) (n : Nat) (p : Payload), s.enabled = true → s.cfg = Config.standard → s.dew = false → n < 4 →
    s.feed[n]? = some (some p) →
    ∃ t, runInstrs [.poll, .rdStatus] s = .next t ∧ t.returned = some 0xDF#8)

/-- R103 at the default STATUS_WR_LAYOUT (D1, presumed by the spec: log 8; D19: bits 7:6 ignored, log 23): the five fields
load, the line is recomputed, and nothing else changes. -/
def Obligations.StatusWriteLoadsItsFields : Prop :=
  ∀ (s : State) (d : Byte), s.enabled = true → s.cfg.layout = Config.standardLayout →
    exec (.wrStatus d) s = .next { s with
      channel := d.extractLsb' 0 2
      outEn := d.getLsbD 2
      intsEn := d.getLsbD 3
      afcEn := d.getLsbD 4
      linksB := d.getLsbD 5
      irq := d.getLsbD 3 && s.int }

/-- R87, R103 for every usable STATUS_WR_LAYOUT (D1): writing the byte assembled from the fields loads exactly those
fields, recomputes the line, and changes nothing else. -/
def Obligations.StatusWriteOfAssembledByte : Prop :=
  ∀ (s : State) (ch : Channel) (out ints afc lb : Bool), s.enabled = true → s.cfg.layout.wf = true →
    exec (.wrStatus (statusWr s.cfg.layout ch out ints afc lb)) s = .next { s with
      channel := ch
      outEn := out
      intsEn := ints
      afcEn := afc
      linksB := lb
      irq := ints && s.int }

/-- R101: a Status write recomputes the line from the state after it, `irq = ints_en ∧ int`. The other writers of the line
do not (R193): a Clear access puts it off whatever ints_en and INT are; RESET and ENABLE put it off by decision (D6; log
13); POLL turns it on with ints_en alone in the default POLL_IRQ_MODE, a decision too (D25; log 11). -/
def Obligations.StatusWriteRecomputesTheLine : Prop :=
  (∀ (s : State) (d : Byte), s.enabled = true →
    ∃ t, exec (.wrStatus d) s = .next t ∧ t.irq = (t.intsEn && t.int) ∧ t.int = s.int) ∧
  (∀ (s : State) (i : Instr), s.enabled = true → i.isClearAccess = true ∨ i = .reset →
    ∃ t, exec i s = .next t ∧ t.irq = false) ∧
  (∀ s : State, s.enabled = false → ∃ t, exec .enable s = .next t ∧ t.irq = false) ∧
  (∀ s : State, s.enabled = true → s.cfg.pollIrqMode = .unconditional → s.intsEn = true →
    ∃ t, exec .poll s = .next t ∧ t.irq = true)

/-! ### The Row port -/

/-- R104: RD ROW returns 0x00 whatever the row pointer holds, changes nothing of the block, and is word 0x100. The byte
0x00 is the spec's choice, where the document says "don't-care/0" (90_conflicts.md C12; log 12). -/
def Obligations.RowReadReturnsZero : Prop :=
  decode 0x100#12 = .ok .rdRow ∧
  ∀ s : State, s.enabled = true → exec .rdRow s = .next { s with returned := some 0x00#8 }

/-- R105 under index_policy = mask (D2): the row is D modulo NROWS (16), the column goes home, nothing else of the block
changes (the model's `past_end`, false under mask, is put to false: log 24). -/
def Obligations.RowWriteSelectsTheRow : Prop :=
  ∀ (s : State) (d : Byte), s.enabled = true → s.cfg.wf = true → s.cfg.indexPolicy = .mask →
    exec (.wrRow d) s = .next { s with
      rowPtr := d.toNat % s.cfg.nrows
      colPtr := 0
      pastEnd := false }

/-- R191 (D2), index_policy = refuse: a Row write is refused exactly when D ≥ NROWS (16); else it loads D, homes the
column and clears `past_end`. -/
def Obligations.RowWriteUnderRefusePolicy : Prop :=
  ∀ (s : State) (d : Byte), s.enabled = true → s.cfg.wf = true → s.cfg.indexPolicy = .refuse →
    (s.cfg.nrows ≤ d.toNat → exec (.wrRow d) s = .refused .indexOutOfRange) ∧
    (d.toNat < s.cfg.nrows →
      exec (.wrRow d) s = .next { s with rowPtr := d.toNat, colPtr := 0, pastEnd := false })

/-! ### The Data port -/

/-- R106 under index_policy = mask (D3): the byte at row·NCOLS + column is returned, the column moves on modulo NCOLS
(64), nothing else changes. -/
def Obligations.DataReadReturnsTheCursorByte : Prop :=
  ∀ s : State, s.enabled = true → s.cfg.wf = true → s.cfg.indexPolicy = .mask →
    exec .rdData s = .next { s with
      returned := some (s.rb.read (s.rowPtr * s.cfg.ncols + s.colPtr))
      colPtr := (s.colPtr + 1) % s.cfg.ncols }

/-- R107, R74 under index_policy = mask (D3): D is stored at row·NCOLS + column, every other byte reads as before, the
column moves on modulo NCOLS (64), nothing else changes. -/
def Obligations.DataWriteStoresAtTheCursor : Prop :=
  ∀ (s : State) (d : Byte), s.enabled = true → s.cfg.wf = true → s.cfg.indexPolicy = .mask → s.rb.wf s.cfg = true →
    ∃ t, exec (.wrData d) s = .next t ∧
      t = { s with rb := t.rb, colPtr := (s.colPtr + 1) % s.cfg.ncols } ∧
      ∀ a : Nat, t.rb.read a = if a = s.rowPtr * s.cfg.ncols + s.colPtr then d else s.rb.read a

/-- R34, R191 (D3), index_policy = refuse: a Data access is refused exactly when `past_end` is set; else it has its
effect, and sets `past_end` when it moves the column from the last one (63) to 0. -/
def Obligations.DataAccessUnderRefusePolicy : Prop :=
  ∀ (s : State) (d : Byte), s.enabled = true → s.cfg.wf = true → s.cfg.indexPolicy = .refuse →
    (s.pastEnd = true →
      exec .rdData s = .refused .indexOutOfRange ∧ exec (.wrData d) s = .refused .indexOutOfRange) ∧
    (s.pastEnd = false →
      exec .rdData s = .next { s with
        returned := some (s.rb.read (s.rowPtr * s.cfg.ncols + s.colPtr))
        colPtr := (s.colPtr + 1) % s.cfg.ncols
        pastEnd := decide (s.colPtr + 1 = s.cfg.ncols) } ∧
      exec (.wrData d) s = .next { s with
        rb := s.rb.write (s.rowPtr * s.cfg.ncols + s.colPtr) d
        colPtr := (s.colPtr + 1) % s.cfg.ncols
        pastEnd := decide (s.colPtr + 1 = s.cfg.ncols) })

/-- R110 (D2, D3): after WR ROW r and n Data accesses in any mix, the row is r modulo NROWS and the column n modulo NCOLS;
a further read returns, and a further write replaces, the byte there. No flag, no control bit and not the line has
changed. -/
def Obligations.CursorLaw : Prop :=
  ∀ (s : State) (r d : Byte) (accesses : List Instr), s.enabled = true → s.cfg.wf = true →
    s.cfg.indexPolicy = .mask → s.rb.wf s.cfg = true → (∀ i ∈ accesses, i.isDataAccess = true) →
    ∃ t, runInstrs (.wrRow r :: accesses) s = .next t ∧
      t.rowPtr = r.toNat % s.cfg.nrows ∧ t.colPtr = accesses.length % s.cfg.ncols ∧
      t = { s with
        rb := t.rb
        rowPtr := t.rowPtr
        colPtr := t.colPtr
        returned := t.returned
        pastEnd := t.pastEnd } ∧
      (∃ u, exec .rdData t = .next u ∧
        u.returned = some (t.rb.read (r.toNat % s.cfg.nrows * s.cfg.ncols + accesses.length % s.cfg.ncols)) ∧
        u.rb = t.rb) ∧
      ∃ u, exec (.wrData d) t = .next u ∧ ∀ a : Nat,
        u.rb.read a =
          if a = r.toNat % s.cfg.nrows * s.cfg.ncols + accesses.length % s.cfg.ncols then d else t.rb.read a

/-- R67, R92, R105 to R107 (D2, D3): what a host puts into a row it gets back. SEEK r, PUT of at most NCOLS (64) bytes,
then READROW r of n + 1 bytes returns, as its last byte, the byte put at column n. -/
def Obligations.HostGetsBackWhatItPut : Prop :=
  ∀ (s : State) (r : Byte) (bytes : List Byte) (n : Nat), s.enabled = true → s.cfg.wf = true →
    s.cfg.indexPolicy = .mask → s.rb.wf s.cfg = true → bytes.length ≤ s.cfg.ncols → n < bytes.length →
    ∃ t, runInstrs (pseudoInstrs s.cfg (.seek r) ++ pseudoInstrs s.cfg (.put bytes) ++
        pseudoInstrs s.cfg (.readRow r (n + 1))) s = .next t ∧
      t.returned = bytes[n]?

/-! ### The Clear port -/

/-- R109 at CLEAR_MASK = 0xD0: WR CLEAR clears FSYN, DOR and INT, keeps DEW, puts the line off whatever ints_en is, does
not use D, and changes nothing else; its words are 0x700..0x7FF; a second Clear access of either direction changes
nothing of the latch or the line. -/
def Obligations.ClearWriteClearsTheLatch : Prop :=
  (∀ d : Byte, decode (BitVec.ofNat 12 (0x700 + d.toNat)) = .ok (.wrClear d)) ∧
  (∀ (s : State) (d : Byte), s.enabled = true → s.cfg.clearMask = 0xD0#8 →
    exec (.wrClear d) s = .next { s with fsyn := false, dor := false, int := false, irq := false }) ∧
  ∀ (s t u : State) (i j : Instr), s.cfg.clearMask = 0xD0#8 → i.isClearAccess = true → j.isClearAccess = true →
    exec i s = .next t → exec j t = .next u →
    u = { t with returned := u.returned }

/-- R108: RD CLEAR has the effect of a Clear write and returns 0x00 (the byte is D4's). -/
def Obligations.ClearReadClearsTheLatch : Prop :=
  ∀ s : State, s.enabled = true → s.cfg.clearMask = 0xD0#8 →
    exec .rdClear s = .next { s with
      fsyn := false
      dor := false
      int := false
      irq := false
      returned := some 0x00#8 }

/-- D24: a Clear access of either direction clears exactly the flags among the bits of CLEAR_MASK, for every mask. -/
def Obligations.ClearMaskSelectsTheFlags : Prop :=
  ∀ (s : State) (i : Instr), s.enabled = true → i.isClearAccess = true →
    ∃ t, exec i s = .next t ∧
      t.fsyn = (s.fsyn && !s.cfg.clearMask.getLsbD 4) ∧ t.dew = (s.dew && !s.cfg.clearMask.getLsbD 5) ∧
      t.dor = (s.dor && !s.cfg.clearMask.getLsbD 6) ∧ t.int = (s.int && !s.cfg.clearMask.getLsbD 7)

/-! ### POLL -/

/-- R146: a payload on any slot, whatever `channel` and `out_en` are and whatever its records hold, sets FSYN, DOR and
INT; with no payload no flag changes. That DEW is never written is R140's algorithm, taken against the document's other
sentence (90_conflicts.md C2; log 25, DEDUCED). That a selected payload whose records are all zero sets the latch too, and
refreshes no row, is what R146 derives from R140. (Parameters that keep R10.) -/
def Obligations.PollLatchesDataFromAnySlot : Prop :=
  ∀ s : State, s.enabled = true → s.cfg.wf = true →
    ∃ t, exec .poll s = .next t ∧ t.dew = s.dew ∧
      ((∃ (n : Nat) (p : Payload), n < s.cfg.nchan ∧ s.feed[n]? = some (some p)) →
        t.fsyn = true ∧ t.dor = true ∧ t.int = true) ∧
      ((∀ (n : Nat) (p : Payload), n < s.cfg.nchan → s.feed[n]? ≠ some (some p)) →
        t.fsyn = s.fsyn ∧ t.dor = s.dor ∧ t.int = s.int) ∧
      ∀ p : Payload, s.feed[s.channel.toNat]? = some (some p) →
        (∀ i : Nat, i < s.cfg.nrows → p[s.cfg.reclen * i]? = some 0x00#8) →
        t.rb = s.rb ∧ t.fsyn = true ∧ t.dor = true ∧ t.int = true

/-- R144, R145: row by row, a POLL either refreshes the row (the marker at column 0, the record's own RECLEN bytes at
columns 1..RECLEN, the columns after these as before) or leaves all NCOLS bytes as they were. That the bytes are the
record's own, from the tested one on, is the reading R144 chose (90_conflicts.md C4; log 25, DEDUCED). By default the
marker is 0x27, and the rows are 16 of 64 bytes with records of 42. (Parameters that keep R10, payloads as R143 says.) -/
def Obligations.PollMergesRowByRow : Prop :=
  ∀ (s : State) (i : Nat), s.enabled = true → s.cfg.wf = true → s.rb.wf s.cfg = true → s.feed.wf s.cfg = true →
    i < s.cfg.nrows →
    ∃ t, exec .poll s = .next t ∧
      (∀ p : Payload, s.outEn = true → s.feed[s.channel.toNat]? = some (some p) →
        p[s.cfg.reclen * i]? ≠ some 0x00#8 →
        t.rb.read (i * s.cfg.ncols) = s.cfg.marker ∧
        (∀ j : Nat, j < s.cfg.reclen → some (t.rb.read (i * s.cfg.ncols + (1 + j))) = p[s.cfg.reclen * i + j]?) ∧
        ∀ c : Nat, s.cfg.reclen < c → c < s.cfg.ncols →
          t.rb.read (i * s.cfg.ncols + c) = s.rb.read (i * s.cfg.ncols + c)) ∧
      ((s.outEn = false ∨ s.feed[s.channel.toNat]? = some none ∨
          ∃ p : Payload, s.feed[s.channel.toNat]? = some (some p) ∧ p[s.cfg.reclen * i]? = some 0x00#8) →
        ∀ c : Nat, c < s.cfg.ncols → t.rb.read (i * s.cfg.ncols + c) = s.rb.read (i * s.cfg.ncols + c)) ∧
      (s.cfg = Config.standard →
        s.cfg.marker = 0x27#8 ∧ s.cfg.nrows = 16 ∧ s.cfg.ncols = 64 ∧ s.cfg.reclen = 42)

/-- R149 at POLL_IRQ_MODE = unconditional: after a POLL, `irq′ = irq ∨ ints_en`, whatever INT is and whether or not data
came. -/
def Obligations.PollAssertsTheLineWhenEnabled : Prop :=
  ∀ s : State, s.enabled = true → s.cfg.pollIrqMode = .unconditional →
    ∃ t, exec .poll s = .next t ∧ t.irq = (s.irq || s.intsEn)

/-- D25 at POLL_IRQ_MODE = recompute: after a POLL, `irq = ints_en ∧ int`, with INT read after the latch step (the model's
reading of 90_conflicts.md C1: log 10). -/
def Obligations.PollRecomputesUnderTheSwitch : Prop :=
  ∀ s : State, s.enabled = true → s.cfg.pollIrqMode = .recompute →
    ∃ t, exec .poll s = .next t ∧ t.irq = (s.intsEn && t.int)

/-- R140: what a POLL leaves alone. It writes the flags, the line and columns 0..RECLEN (42) of the RowBuffer, and nothing
else: not the cursor, not the ControlState, not the mode, and no byte of the columns after these or outside the
RowBuffer. -/
def Obligations.PollChangesNothingElse : Prop :=
  ∀ s : State, s.enabled = true → s.cfg.wf = true →
    ∃ t, exec .poll s = .next t ∧
      t = { s with
        fsyn := t.fsyn
        dew := t.dew
        dor := t.dor
        int := t.int
        rb := t.rb
        irq := t.irq } ∧
      ∀ a : Nat, (s.cfg.nrows * s.cfg.ncols ≤ a ∨ s.cfg.reclen < a % s.cfg.ncols) → t.rb.read a = s.rb.read a

/-- R141 (D12): only the selected channel's payload reaches the RowBuffer. Two POLLs that differ only in the payloads of
the other slots leave the same RowBuffer. -/
def Obligations.UnselectedChannelsDoNotReachTheBuffer : Prop :=
  ∀ (s : State) (f : Feed), f[s.channel.toNat]? = s.feed[s.channel.toNat]? →
    ∃ t u, exec .poll s = .next t ∧ exec .poll { s with feed := f } = .next u ∧ u.rb = t.rb ∧
      (s.feed[s.channel.toNat]? = some none → t.rb = s.rb)

/-- R140, R105, R106 (D2, D3): a delivered row becomes readable. After a POLL that refreshes row i, READROW i of n + 1
bytes returns, as its last byte, the marker (n = 0), record byte n − 1 (n = 1..RECLEN), or the old byte (after RECLEN).
That record byte n − 1 is the record's own is the reading of 90_conflicts.md C4 (log 25, DEDUCED). -/
def Obligations.DeliveredRowBecomesReadable : Prop :=
  ∀ (s : State) (p : Payload) (i n : Nat), s.enabled = true → s.outEn = true → s.cfg.wf = true →
    s.cfg.indexPolicy = .mask → s.rb.wf s.cfg = true → s.feed.wf s.cfg = true →
    s.feed[s.channel.toNat]? = some (some p) → i < s.cfg.nrows → p[s.cfg.reclen * i]? ≠ some 0x00#8 →
    n < s.cfg.ncols →
    ∃ t, runInstrs (.poll :: pseudoInstrs s.cfg (.readRow (BitVec.ofNat 8 i) (n + 1))) s = .next t ∧
      (n = 0 → t.returned = some s.cfg.marker) ∧
      (1 ≤ n → n ≤ s.cfg.reclen → t.returned = p[s.cfg.reclen * i + (n - 1)]?) ∧
      (s.cfg.reclen < n → t.returned = some (s.rb.read (i * s.cfg.ncols + n)))

/-! ### Lifecycle -/

/-- R46, R47, R170 (D5, D6, D7): ENABLE from the disabled mode loads every reset value and the RowBuffer from the free
input rb0, whatever that is. -/
def Obligations.EnableLoadsTheResetValues : Prop :=
  ∀ s : State, s.enabled = false → s.cfg.wf = true →
    exec .enable s = .next { s with
      enabled := true
      fsyn := false
      dew := false
      dor := false
      int := false
      channel := 0#2
      intsEn := false
      outEn := false
      afcEn := false
      linksB := false
      rowPtr := 0
      colPtr := 0
      rb := s.rb0
      irq := false
      pastEnd := false }

/-- R46, R172 (D5, D6): RESET while enabled loads every reset value and keeps the mode and the RowBuffer. -/
def Obligations.ResetLoadsTheResetValues : Prop :=
  ∀ s : State, s.enabled = true → s.cfg.wf = true →
    exec .reset s = .next { s with
      fsyn := false
      dew := false
      dor := false
      int := false
      channel := 0#2
      intsEn := false
      outEn := false
      afcEn := false
      linksB := false
      rowPtr := 0
      colPtr := 0
      irq := false
      pastEnd := false }

/-- R171 (D10): DISABLE while enabled turns the mode off; every other field, the line too, keeps its value. -/
def Obligations.DisableKeepsEverythingElse : Prop :=
  ∀ s : State, s.enabled = true → exec .disable s = .next { s with enabled := false }

/-- R142, R170, R171, R172 (D8, D9, D11): POLL, RESET and DISABLE while disabled, and ENABLE while enabled, change
nothing. -/
def Obligations.RedundantModeEventsDoNothing : Prop :=
  (∀ s : State, s.enabled = false → exec .poll s = .next s ∧ exec .reset s = .next s ∧ exec .disable s = .next s) ∧
  ∀ s : State, s.enabled = true → exec .enable s = .next s

/-- R48, R170: nothing the block held while disabled survives ENABLE. Two disabled states that agree on the parameters and
on the model's record of the event give the same state. -/
def Obligations.NothingHeldSurvivesEnable : Prop :=
  ∀ s u : State, s.enabled = false → u.enabled = false → s.cfg = u.cfg → s.rb0 = u.rb0 → s.feed = u.feed →
    s.pending = u.pending → s.returned = u.returned →
    ∃ t, exec .enable s = .next t ∧ exec .enable u = .next t

/-! ### Rules of the whole machine -/

/-- R190, R191: no event faults; an event is refused only as an index out of range, only under index_policy = refuse, and
only as a Row write with D ≥ NROWS (16) or a Data access past the end. So under mask every event completes. That it is
refused only while enabled is deduced from R100, which makes every bus event of a disabled block inert (log 18). -/
def Obligations.EveryEventCompletesOrIsOutOfRange : Prop :=
  ∀ (i : Instr) (s : State), (∃ t, exec i s = .next t) ∨
    (exec i s = .refused .indexOutOfRange ∧ s.enabled = true ∧ s.cfg.indexPolicy = .refuse ∧
      ((∃ d : Byte, i = .wrRow d ∧ s.cfg.nrows ≤ d.toNat) ∨ (i.isDataAccess = true ∧ s.pastEnd = true)))

/-- R24, R26: FSYN and DOR are set by a POLL with a payload on some slot, cleared by a Clear access of either direction, by
RESET and by ENABLE, touched by no other event, and read by RD STATUS. (Parameters that keep R10, CLEAR_MASK at its default.) -/
def Obligations.FsynAndDorTransitions : Prop :=
  ∀ (i : Instr) (s t : State), s.cfg.wf = true → s.cfg.clearMask = 0xD0#8 → exec i s = .next t →
    (s.enabled = true → i = .poll →
      (∃ (n : Nat) (p : Payload), n < s.cfg.nchan ∧ s.feed[n]? = some (some p)) → t.fsyn = true ∧ t.dor = true) ∧
    (s.enabled = true → i.isClearAccess = true ∨ i = .reset → t.fsyn = false ∧ t.dor = false) ∧
    (s.enabled = false → i = .enable → t.fsyn = false ∧ t.dor = false) ∧
    (t.fsyn ≠ s.fsyn ∨ t.dor ≠ s.dor →
      i = .poll ∨ i.isClearAccess = true ∨ i = .reset ∨ i = .enable) ∧
    (s.enabled = true → i = .rdStatus → ∃ v : Byte, t.returned = some v ∧ v.getLsbD 4 = s.fsyn ∧ v.getLsbD 6 = s.dor)

/-- R28: between two clearing events the flags FSYN, DOR and INT only go up, over any list of events of any agents with any
inputs; and no bus event but the Clear accesses changes any of the four flags. -/
def Obligations.StickyFlagsAreMonotoneBetweenClears : Prop :=
  (∀ (es : List Event) (s t : State),
    (∀ e ∈ es, ∀ i, decode e.word = .ok i → i.isClearAccess = false ∧ i ≠ .reset ∧ i ≠ .enable) →
    runEvents es s = .next t →
    (s.fsyn = true → t.fsyn = true) ∧ (s.dor = true → t.dor = true) ∧ (s.int = true → t.int = true)) ∧
  ∀ (i : Instr) (s t : State), i.agent = .host → i.isClearAccess = false → exec i s = .next t →
    t.fsyn = s.fsyn ∧ t.dew = s.dew ∧ t.dor = s.dor ∧ t.int = s.int

/-- R25: no event sets DEW, with any parameters that keep R10. -/
def Obligations.NothingSetsDew : Prop :=
  ∀ (i : Instr) (s t : State), s.cfg.wf = true → exec i s = .next t → t.dew = true → s.dew = true

/-- R194, R229 at CLEAR_MASK = 0xD0 and parameters that keep R10: FSYN, DOR and INT, where equal, stay equal through every
event. -/
def Obligations.DataFlagsStayTogether : Prop :=
  ∀ (i : Instr) (s t : State), s.cfg.wf = true → s.cfg.clearMask = 0xD0#8 → exec i s = .next t →
    s.fsyn = s.int → s.dor = s.int → t.fsyn = t.int ∧ t.dor = t.int

/-- R21: `enabled` is true between an ENABLE and the next DISABLE: ENABLE turns it on, DISABLE off, and no other event
changes it. While it is false every bus read returns SENTINEL and every bus write changes nothing, so the host sees it
through the sentinel only. -/
def Obligations.OnlyEnableAndDisableChangeTheMode : Prop :=
  (∀ (i : Instr) (s t : State), exec i s = .next t →
    t.enabled = (if i = .enable then true else if i = .disable then false else s.enabled)) ∧
  ∀ (i : Instr) (s t : State), s.enabled = false → i.agent = .host → exec i s = .next t →
    (i.isRead = true → t.returned = some s.cfg.sentinel) ∧ t = { s with returned := t.returned } ∧
    (i.isRead = false → t = s)

/-- R29 to R32: the ControlState is changed by a Status write, RESET or ENABLE and by no other event. -/
def Obligations.ControlStateWriters : Prop :=
  ∀ (i : Instr) (s t : State), exec i s = .next t → (∀ d, i ≠ .wrStatus d) → i ≠ .reset → i ≠ .enable →
    t.channel = s.channel ∧ t.intsEn = s.intsEn ∧ t.outEn = s.outEn ∧ t.afcEn = s.afcEn ∧ t.linksB = s.linksB

/-- R33, R34: the row pointer is changed by a Row write, RESET or ENABLE only; the column pointer by these and the Data
accesses only. -/
def Obligations.CursorWriters : Prop :=
  ∀ (i : Instr) (s t : State), exec i s = .next t → (∀ d, i ≠ .wrRow d) → i ≠ .reset → i ≠ .enable →
    t.rowPtr = s.rowPtr ∧ (i.isDataAccess = false → t.colPtr = s.colPtr)

/-- R35: the RowBuffer is changed by a Data write, a POLL or ENABLE only. -/
def Obligations.RowBufferWriters : Prop :=
  ∀ (i : Instr) (s t : State), exec i s = .next t → (∀ d, i ≠ .wrData d) → i ≠ .poll → i ≠ .enable → t.rb = s.rb

/-- R13, R38: a byte is returned by a bus read, and by no other event. That an event that returns none leaves the model's
record `returned` as the event found it is the model's choice (log 6). -/
def Obligations.OnlyReadsReturnAByte : Prop :=
  ∀ (i : Instr) (s t : State), exec i s = .next t →
    (i.isRead = true → ∃ v, t.returned = some v) ∧ (i.isRead = false → t.returned = s.returned)

/-- R193 (POLL_IRQ_MODE and STATUS_WR_LAYOUT at their defaults: D25, D1): each event's effect on the line, while enabled
and while disabled. -/
def Obligations.EventsAndTheLine : Prop :=
  ∀ (i : Instr) (s t : State), s.cfg.pollIrqMode = .unconditional → s.cfg.layout = Config.standardLayout →
    exec i s = .next t →
    (s.enabled = true → t.irq =
      match i with
      | .rdStatus | .rdRow | .rdData | .wrRow _ | .wrData _ | .enable | .disable => s.irq
      | .wrStatus d => d.getLsbD 3 && s.int
      | .rdClear | .wrClear _ | .reset => false
      | .poll => s.irq || s.intsEn) ∧
    (s.enabled = false → t.irq = if i = .enable then false else s.irq)

/-- R65, R172: the accesses R65's table calls idempotent, and RESET: twice is as once. So it is for ENABLE and DISABLE, by
decision: each changes nothing in the mode it leads to (R170, R171, D9; log 14). -/
def Obligations.IdempotentEvents : Prop :=
  ∀ (i : Instr) (s t u : State), i ≠ .poll → i.isDataAccess = false →
    exec i s = .next t → exec i t = .next u → u = t

/-- R196: in every reachable state, from any power-on content, with any parameters, by any list of events with any inputs,
`irq ⇒ ints_en`. -/
def Obligations.LineImpliesInterruptsEnabled : Prop :=
  ∀ s : State, s.Reachable → s.irq = true → s.intsEn = true

/-- R197: `irq ⇒ int` is no invariant: ENABLE; WR STATUS, 0x08; POLL with no payload reaches irq = 1 with int = 0, from
every power-on state with the default parameters. -/
def Obligations.LineWithoutIntIsReachable : Prop :=
  ∀ s : State, s.PowerOn → s.cfg = Config.standard →
    ∃ t, runEvents [⟨0xD00#12, Feed.absent s.cfg, []⟩, ⟨0x408#12, Feed.absent s.cfg, []⟩,
        ⟨0x800#12, Feed.absent s.cfg, []⟩] s = .next t ∧
      t.irq = true ∧ t.int = false

/-! ### The invariant -/

/-- The invariant holds after reset (the values of `State.reset` beyond R48 are the model's: logs 4, 5). -/
def Obligations.ResetSatisfiesTheInvariant : Prop := State.Inv State.reset

/-- Every step keeps the invariant: usable parameters, the cursor in its ranges (R33, R34), canonical RowBuffer and inputs
(R74, R143; log 5), `irq ⇒ ints_en` (R196), DEW clear while enabled (R25), no `past_end` under mask (R34). -/
def Obligations.StepKeepsTheInvariant : Prop :=
  ∀ s t : State, s.Inv → step s = .next t → t.Inv

/-- R190, R191 under index_policy = mask: while no reserved word is pending every step goes on, and stays so. -/
def Obligations.StepsGoOnUnlessReserved : Prop :=
  ∀ s : State, s.cfg.indexPolicy = .mask → (∀ e ∈ s.pending, e.Legal) →
    ∃ t, step s = .next t ∧ t.cfg.indexPolicy = .mask ∧ ∀ e ∈ t.pending, e.Legal

/-- A content has one canonical form: two canonical RowBuffers that read alike at every address are equal (log 5). -/
def Obligations.CanonicalMemoriesThatReadAlikeAreEqual : Prop :=
  ∀ (c : Params) (m m' : Memory), m.wf c = true → m'.wf c = true → (∀ a : Nat, m.read a = m'.read a) → m = m'

/-! ### The host's bus -/

/-- R61, R62, R9 (D14): on the host's bus each port stands at BASE plus its number. A host read there is the read event of
the port, a host write the write event of the low 8 bits of the value ("value & 0xFF"), and an address outside the four
reaches the block with neither. -/
def Obligations.HostAccessReachesItsPort : Prop :=
  ∀ c : Params, c.wf = true →
    (∀ p : Port, hostRead c p.hostAddress = some p.readEvent) ∧
    (∀ (p : Port) (value : Nat), hostWrite c p.hostAddress value = some (p.writeEvent (BitVec.ofNat 8 value))) ∧
    (Port.status.hostAddress = Config.BASE ∧ Port.row.hostAddress = Config.BASE + 1 ∧
      Port.data.hostAddress = Config.BASE + 2 ∧ Port.clear.hostAddress = Config.BASE + 3) ∧
    ∀ addr value : Nat, addr < Config.BASE ∨ Config.BASE + 4 ≤ addr →
      hostRead c addr = none ∧ hostWrite c addr value = none
end

