-- ==== Sys2Proof/Laws/Decode.lean ====
section
/-! SUPPORT. The decoder as one chain of tests on the word's number, and everything it can answer (30_encoding.md R88,
R89). -/

namespace Sys2Proof

/-- A row with mask 0xFFF fits its match word only. -/
theorem fits_exact (k w : EventWord) (f : Byte → Instr) : OpcodeRow.fits ⟨k, 0xFFF#12, f⟩ w = decide (w = k) := by
  have h : w &&& 0xFFF#12 = w := BitVec.and_allOnes
  simp [OpcodeRow.fits, h]

theorem and_F00 (w : EventWord) : w &&& 0xF00#12 = (w >>> 8) <<< 8 := by
  apply BitVec.eq_of_getLsbD_eq
  intro n hn
  have hm : (0xF00#12).getLsbD n = decide (8 ≤ n) := by interval_cases n <;> rfl
  simp only [BitVec.getLsbD_and, BitVec.getLsbD_shiftLeft, BitVec.getLsbD_ushiftRight, hm]
  by_cases h8 : n < 8
  · simp [h8]
  · have h8' : 8 ≤ n := Nat.le_of_not_lt h8
    simp [hn, h8, h8', Nat.add_sub_cancel' h8']

/-- A row with mask 0xF00 fits the 256 words that share its bits 11:8. -/
theorem fits_write (k w : EventWord) (f : Byte → Instr) (hk : k.toNat % 256 = 0) :
    OpcodeRow.fits ⟨k, 0xF00#12, f⟩ w = decide (w.toNat / 256 = k.toNat / 256) := by
  have hw : w.toNat < 4096 := w.isLt
  have h : (w &&& 0xF00#12).toNat = w.toNat / 256 * 256 := by
    rw [and_F00, BitVec.toNat_shiftLeft, BitVec.toNat_ushiftRight, Nat.shiftRight_eq_div_pow, Nat.shiftLeft_eq]
    exact Nat.mod_eq_of_lt (by omega)
  apply decide_eq_decide.mpr
  change w &&& 0xF00#12 = k ↔ _
  rw [← BitVec.toNat_inj, h]
  omega

/-- The decoder, row by row. -/
theorem decode_eq (w : EventWord) : decode w =
    if w = 0x000#12 then .ok .rdStatus
    else if w = 0x100#12 then .ok .rdRow
    else if w = 0x200#12 then .ok .rdData
    else if w = 0x300#12 then .ok .rdClear
    else if w.toNat / 256 = 4 then .ok (.wrStatus (operandD w))
    else if w.toNat / 256 = 5 then .ok (.wrRow (operandD w))
    else if w.toNat / 256 = 6 then .ok (.wrData (operandD w))
    else if w.toNat / 256 = 7 then .ok (.wrClear (operandD w))
    else if w = 0x800#12 then .ok .poll
    else if w = 0xC00#12 then .ok .reset
    else if w = 0xD00#12 then .ok .enable
    else if w = 0xE00#12 then .ok .disable
    else .error .reservedEventWord := by
  unfold decode opcodeMap
  simp only [firstFit, fits_exact, decide_eq_true_eq]
  rw [fits_write 0x400#12 w _ rfl, fits_write 0x500#12 w _ rfl, fits_write 0x600#12 w _ rfl,
    fits_write 0x700#12 w _ rfl]
  simp only [decide_eq_true_eq]
  rfl

/-- Everything the decoder can answer. -/
theorem decode_cases {w : EventWord} {i : Instr} (h : decode w = .ok i) :
    (w = 0x000#12 ∧ i = .rdStatus) ∨ (w = 0x100#12 ∧ i = .rdRow) ∨ (w = 0x200#12 ∧ i = .rdData) ∨
    (w = 0x300#12 ∧ i = .rdClear) ∨
    (w.toNat / 256 = 4 ∧ i = .wrStatus (operandD w)) ∨ (w.toNat / 256 = 5 ∧ i = .wrRow (operandD w)) ∨
    (w.toNat / 256 = 6 ∧ i = .wrData (operandD w)) ∨ (w.toNat / 256 = 7 ∧ i = .wrClear (operandD w)) ∨
    (w = 0x800#12 ∧ i = .poll) ∨ (w = 0xC00#12 ∧ i = .reset) ∨ (w = 0xD00#12 ∧ i = .enable) ∨
    (w = 0xE00#12 ∧ i = .disable) := by
  rw [decode_eq] at h
  by_cases hw : w = 0x000#12
  · rw [if_pos hw] at h; exact .inl ⟨hw, (Except.ok.inj h).symm⟩
  rw [if_neg hw] at h; clear hw
  by_cases hw : w = 0x100#12
  · rw [if_pos hw] at h; exact .inr <| .inl ⟨hw, (Except.ok.inj h).symm⟩
  rw [if_neg hw] at h; clear hw
  by_cases hw : w = 0x200#12
  · rw [if_pos hw] at h; exact .inr <| .inr <| .inl ⟨hw, (Except.ok.inj h).symm⟩
  rw [if_neg hw] at h; clear hw
  by_cases hw : w = 0x300#12
  · rw [if_pos hw] at h; exact .inr <| .inr <| .inr <| .inl ⟨hw, (Except.ok.inj h).symm⟩
  rw [if_neg hw] at h; clear hw
  by_cases hw : w.toNat / 256 = 4
  · rw [if_pos hw] at h; exact .inr <| .inr <| .inr <| .inr <| .inl ⟨hw, (Except.ok.inj h).symm⟩
  rw [if_neg hw] at h; clear hw
  by_cases hw : w.toNat / 256 = 5
  · rw [if_pos hw] at h; exact .inr <| .inr <| .inr <| .inr <| .inr <| .inl ⟨hw, (Except.ok.inj h).symm⟩
  rw [if_neg hw] at h; clear hw
  by_cases hw : w.toNat / 256 = 6
  · rw [if_pos hw] at h; exact .inr <| .inr <| .inr <| .inr <| .inr <| .inr <| .inl ⟨hw, (Except.ok.inj h).symm⟩
  rw [if_neg hw] at h; clear hw
  by_cases hw : w.toNat / 256 = 7
  · rw [if_pos hw] at h; exact .inr <| .inr <| .inr <| .inr <| .inr <| .inr <| .inr <| .inl ⟨hw, (Except.ok.inj h).symm⟩
  rw [if_neg hw] at h; clear hw
  by_cases hw : w = 0x800#12
  · rw [if_pos hw] at h; exact .inr <| .inr <| .inr <| .inr <| .inr <| .inr <| .inr <| .inr <| .inl ⟨hw, (Except.ok.inj h).symm⟩
  rw [if_neg hw] at h; clear hw
  by_cases hw : w = 0xC00#12
  · rw [if_pos hw] at h; exact .inr <| .inr <| .inr <| .inr <| .inr <| .inr <| .inr <| .inr <| .inr <| .inl ⟨hw, (Except.ok.inj h).symm⟩
  rw [if_neg hw] at h; clear hw
  by_cases hw : w = 0xD00#12
  · rw [if_pos hw] at h; exact .inr <| .inr <| .inr <| .inr <| .inr <| .inr <| .inr <| .inr <| .inr <| .inr <| .inl ⟨hw, (Except.ok.inj h).symm⟩
  rw [if_neg hw] at h; clear hw
  by_cases hw : w = 0xE00#12
  · rw [if_pos hw] at h; exact .inr <| .inr <| .inr <| .inr <| .inr <| .inr <| .inr <| .inr <| .inr <| .inr <| .inr <| ⟨hw, (Except.ok.inj h).symm⟩
  rw [if_neg hw] at h; clear hw
  exact absurd h (by simp)

/-- The operand field of a word, as a number. -/
theorem operandD_toNat (w : EventWord) : (operandD w).toNat = w.toNat % 256 := by simp [operandD]

/-- Every offset selects a port, and each port is selected by its own. -/
theorem portOfOffset_offset (p : Port) : portOfOffset p.offset = p := by cases p <;> rfl

/-- A port's host address gives the block that port's offset. -/
theorem offsetOfHostAddress_hostAddress {c : Params} (hc : c.portBits = 2) (p : Port) :
    offsetOfHostAddress c p.hostAddress = some p.offset := by
  have hp : p.offset.toNat < 4 := p.offset.isLt
  unfold offsetOfHostAddress Port.hostAddress
  rw [hc, if_pos (by omega), Nat.add_sub_cancel_left, BitVec.ofNat_toNat, BitVec.setWidth_eq]

/-- A write word is its bits 11:8 times 256 plus D. -/
theorem formatBW_toNat (p : Port) (d : Byte) : (formatBW p d).toNat = 1024 + p.offset.toNat * 256 + d.toNat := by
  have hd : d.toNat < 256 := d.isLt
  cases p <;> simp only [formatBW, Port.offset, BitVec.toNat_append, BitVec.toNat_ofNat, Nat.shiftLeft_eq] <;>
    (rw [Nat.or_comm, ← Nat.mul_comm (2 ^ 8), Nat.or_comm, ← Nat.two_pow_add_eq_or_of_lt (by simpa using hd)]; simp)

end Sys2Proof
end

