-- ==== Sys2Proof/Laws/State.lean ====
section
/-! SUPPORT. One lemma per field per update of the state, true by rfl: no later proof unfolds a record update. -/

namespace Sys2Proof.Machine.State

variable (s : State)

/-! ### `setFlags` -/

@[simp] theorem setFlags_enabled (m : Byte) : (s.setFlags m).enabled = s.enabled := rfl
@[simp] theorem setFlags_fsyn (m : Byte) : (s.setFlags m).fsyn = (s.fsyn || m.getLsbD 4) := rfl
@[simp] theorem setFlags_dew (m : Byte) : (s.setFlags m).dew = (s.dew || m.getLsbD 5) := rfl
@[simp] theorem setFlags_dor (m : Byte) : (s.setFlags m).dor = (s.dor || m.getLsbD 6) := rfl
@[simp] theorem setFlags_int (m : Byte) : (s.setFlags m).int = (s.int || m.getLsbD 7) := rfl
@[simp] theorem setFlags_channel (m : Byte) : (s.setFlags m).channel = s.channel := rfl
@[simp] theorem setFlags_intsEn (m : Byte) : (s.setFlags m).intsEn = s.intsEn := rfl
@[simp] theorem setFlags_outEn (m : Byte) : (s.setFlags m).outEn = s.outEn := rfl
@[simp] theorem setFlags_afcEn (m : Byte) : (s.setFlags m).afcEn = s.afcEn := rfl
@[simp] theorem setFlags_linksB (m : Byte) : (s.setFlags m).linksB = s.linksB := rfl
@[simp] theorem setFlags_rowPtr (m : Byte) : (s.setFlags m).rowPtr = s.rowPtr := rfl
@[simp] theorem setFlags_colPtr (m : Byte) : (s.setFlags m).colPtr = s.colPtr := rfl
@[simp] theorem setFlags_rb (m : Byte) : (s.setFlags m).rb = s.rb := rfl
@[simp] theorem setFlags_irq (m : Byte) : (s.setFlags m).irq = s.irq := rfl
@[simp] theorem setFlags_cfg (m : Byte) : (s.setFlags m).cfg = s.cfg := rfl
@[simp] theorem setFlags_pastEnd (m : Byte) : (s.setFlags m).pastEnd = s.pastEnd := rfl
@[simp] theorem setFlags_returned (m : Byte) : (s.setFlags m).returned = s.returned := rfl
@[simp] theorem setFlags_feed (m : Byte) : (s.setFlags m).feed = s.feed := rfl
@[simp] theorem setFlags_rb0 (m : Byte) : (s.setFlags m).rb0 = s.rb0 := rfl
@[simp] theorem setFlags_pending (m : Byte) : (s.setFlags m).pending = s.pending := rfl

/-! ### `clearFlags` -/

@[simp] theorem clearFlags_enabled (m : Byte) : (s.clearFlags m).enabled = s.enabled := rfl
@[simp] theorem clearFlags_fsyn (m : Byte) : (s.clearFlags m).fsyn = (s.fsyn && !m.getLsbD 4) := rfl
@[simp] theorem clearFlags_dew (m : Byte) : (s.clearFlags m).dew = (s.dew && !m.getLsbD 5) := rfl
@[simp] theorem clearFlags_dor (m : Byte) : (s.clearFlags m).dor = (s.dor && !m.getLsbD 6) := rfl
@[simp] theorem clearFlags_int (m : Byte) : (s.clearFlags m).int = (s.int && !m.getLsbD 7) := rfl
@[simp] theorem clearFlags_channel (m : Byte) : (s.clearFlags m).channel = s.channel := rfl
@[simp] theorem clearFlags_intsEn (m : Byte) : (s.clearFlags m).intsEn = s.intsEn := rfl
@[simp] theorem clearFlags_outEn (m : Byte) : (s.clearFlags m).outEn = s.outEn := rfl
@[simp] theorem clearFlags_afcEn (m : Byte) : (s.clearFlags m).afcEn = s.afcEn := rfl
@[simp] theorem clearFlags_linksB (m : Byte) : (s.clearFlags m).linksB = s.linksB := rfl
@[simp] theorem clearFlags_rowPtr (m : Byte) : (s.clearFlags m).rowPtr = s.rowPtr := rfl
@[simp] theorem clearFlags_colPtr (m : Byte) : (s.clearFlags m).colPtr = s.colPtr := rfl
@[simp] theorem clearFlags_rb (m : Byte) : (s.clearFlags m).rb = s.rb := rfl
@[simp] theorem clearFlags_irq (m : Byte) : (s.clearFlags m).irq = s.irq := rfl
@[simp] theorem clearFlags_cfg (m : Byte) : (s.clearFlags m).cfg = s.cfg := rfl
@[simp] theorem clearFlags_pastEnd (m : Byte) : (s.clearFlags m).pastEnd = s.pastEnd := rfl
@[simp] theorem clearFlags_returned (m : Byte) : (s.clearFlags m).returned = s.returned := rfl
@[simp] theorem clearFlags_feed (m : Byte) : (s.clearFlags m).feed = s.feed := rfl
@[simp] theorem clearFlags_rb0 (m : Byte) : (s.clearFlags m).rb0 = s.rb0 := rfl
@[simp] theorem clearFlags_pending (m : Byte) : (s.clearFlags m).pending = s.pending := rfl

/-! ### `loadFlags` -/

@[simp] theorem loadFlags_enabled (v : Byte) : (s.loadFlags v).enabled = s.enabled := rfl
@[simp] theorem loadFlags_fsyn (v : Byte) : (s.loadFlags v).fsyn = v.getLsbD 4 := rfl
@[simp] theorem loadFlags_dew (v : Byte) : (s.loadFlags v).dew = v.getLsbD 5 := rfl
@[simp] theorem loadFlags_dor (v : Byte) : (s.loadFlags v).dor = v.getLsbD 6 := rfl
@[simp] theorem loadFlags_int (v : Byte) : (s.loadFlags v).int = v.getLsbD 7 := rfl
@[simp] theorem loadFlags_channel (v : Byte) : (s.loadFlags v).channel = s.channel := rfl
@[simp] theorem loadFlags_intsEn (v : Byte) : (s.loadFlags v).intsEn = s.intsEn := rfl
@[simp] theorem loadFlags_outEn (v : Byte) : (s.loadFlags v).outEn = s.outEn := rfl
@[simp] theorem loadFlags_afcEn (v : Byte) : (s.loadFlags v).afcEn = s.afcEn := rfl
@[simp] theorem loadFlags_linksB (v : Byte) : (s.loadFlags v).linksB = s.linksB := rfl
@[simp] theorem loadFlags_rowPtr (v : Byte) : (s.loadFlags v).rowPtr = s.rowPtr := rfl
@[simp] theorem loadFlags_colPtr (v : Byte) : (s.loadFlags v).colPtr = s.colPtr := rfl
@[simp] theorem loadFlags_rb (v : Byte) : (s.loadFlags v).rb = s.rb := rfl
@[simp] theorem loadFlags_irq (v : Byte) : (s.loadFlags v).irq = s.irq := rfl
@[simp] theorem loadFlags_cfg (v : Byte) : (s.loadFlags v).cfg = s.cfg := rfl
@[simp] theorem loadFlags_pastEnd (v : Byte) : (s.loadFlags v).pastEnd = s.pastEnd := rfl
@[simp] theorem loadFlags_returned (v : Byte) : (s.loadFlags v).returned = s.returned := rfl
@[simp] theorem loadFlags_feed (v : Byte) : (s.loadFlags v).feed = s.feed := rfl
@[simp] theorem loadFlags_rb0 (v : Byte) : (s.loadFlags v).rb0 = s.rb0 := rfl
@[simp] theorem loadFlags_pending (v : Byte) : (s.loadFlags v).pending = s.pending := rfl

/-! ### `advanceCol` -/

@[simp] theorem advanceCol_enabled : (s.advanceCol).enabled = s.enabled := rfl
@[simp] theorem advanceCol_fsyn : (s.advanceCol).fsyn = s.fsyn := rfl
@[simp] theorem advanceCol_dew : (s.advanceCol).dew = s.dew := rfl
@[simp] theorem advanceCol_dor : (s.advanceCol).dor = s.dor := rfl
@[simp] theorem advanceCol_int : (s.advanceCol).int = s.int := rfl
@[simp] theorem advanceCol_channel : (s.advanceCol).channel = s.channel := rfl
@[simp] theorem advanceCol_intsEn : (s.advanceCol).intsEn = s.intsEn := rfl
@[simp] theorem advanceCol_outEn : (s.advanceCol).outEn = s.outEn := rfl
@[simp] theorem advanceCol_afcEn : (s.advanceCol).afcEn = s.afcEn := rfl
@[simp] theorem advanceCol_linksB : (s.advanceCol).linksB = s.linksB := rfl
@[simp] theorem advanceCol_rowPtr : (s.advanceCol).rowPtr = s.rowPtr := rfl
@[simp] theorem advanceCol_colPtr : (s.advanceCol).colPtr = nextCol s.cfg s.colPtr := rfl
@[simp] theorem advanceCol_rb : (s.advanceCol).rb = s.rb := rfl
@[simp] theorem advanceCol_irq : (s.advanceCol).irq = s.irq := rfl
@[simp] theorem advanceCol_cfg : (s.advanceCol).cfg = s.cfg := rfl
@[simp] theorem advanceCol_pastEnd : (s.advanceCol).pastEnd = (s.pastEnd || (decide (s.cfg.indexPolicy = .refuse) && decide (s.colPtr + 1 = s.cfg.ncols))) := rfl
@[simp] theorem advanceCol_returned : (s.advanceCol).returned = s.returned := rfl
@[simp] theorem advanceCol_feed : (s.advanceCol).feed = s.feed := rfl
@[simp] theorem advanceCol_rb0 : (s.advanceCol).rb0 = s.rb0 := rfl
@[simp] theorem advanceCol_pending : (s.advanceCol).pending = s.pending := rfl

/-! ### `seekRow` -/

@[simp] theorem seekRow_enabled (r : Nat) : (s.seekRow r).enabled = s.enabled := rfl
@[simp] theorem seekRow_fsyn (r : Nat) : (s.seekRow r).fsyn = s.fsyn := rfl
@[simp] theorem seekRow_dew (r : Nat) : (s.seekRow r).dew = s.dew := rfl
@[simp] theorem seekRow_dor (r : Nat) : (s.seekRow r).dor = s.dor := rfl
@[simp] theorem seekRow_int (r : Nat) : (s.seekRow r).int = s.int := rfl
@[simp] theorem seekRow_channel (r : Nat) : (s.seekRow r).channel = s.channel := rfl
@[simp] theorem seekRow_intsEn (r : Nat) : (s.seekRow r).intsEn = s.intsEn := rfl
@[simp] theorem seekRow_outEn (r : Nat) : (s.seekRow r).outEn = s.outEn := rfl
@[simp] theorem seekRow_afcEn (r : Nat) : (s.seekRow r).afcEn = s.afcEn := rfl
@[simp] theorem seekRow_linksB (r : Nat) : (s.seekRow r).linksB = s.linksB := rfl
@[simp] theorem seekRow_rowPtr (r : Nat) : (s.seekRow r).rowPtr = r := rfl
@[simp] theorem seekRow_colPtr (r : Nat) : (s.seekRow r).colPtr = 0 := rfl
@[simp] theorem seekRow_rb (r : Nat) : (s.seekRow r).rb = s.rb := rfl
@[simp] theorem seekRow_irq (r : Nat) : (s.seekRow r).irq = s.irq := rfl
@[simp] theorem seekRow_cfg (r : Nat) : (s.seekRow r).cfg = s.cfg := rfl
@[simp] theorem seekRow_pastEnd (r : Nat) : (s.seekRow r).pastEnd = false := rfl
@[simp] theorem seekRow_returned (r : Nat) : (s.seekRow r).returned = s.returned := rfl
@[simp] theorem seekRow_feed (r : Nat) : (s.seekRow r).feed = s.feed := rfl
@[simp] theorem seekRow_rb0 (r : Nat) : (s.seekRow r).rb0 = s.rb0 := rfl
@[simp] theorem seekRow_pending (r : Nat) : (s.seekRow r).pending = s.pending := rfl

/-! ### `answer` -/

@[simp] theorem answer_enabled (v : Byte) : (s.answer v).enabled = s.enabled := rfl
@[simp] theorem answer_fsyn (v : Byte) : (s.answer v).fsyn = s.fsyn := rfl
@[simp] theorem answer_dew (v : Byte) : (s.answer v).dew = s.dew := rfl
@[simp] theorem answer_dor (v : Byte) : (s.answer v).dor = s.dor := rfl
@[simp] theorem answer_int (v : Byte) : (s.answer v).int = s.int := rfl
@[simp] theorem answer_channel (v : Byte) : (s.answer v).channel = s.channel := rfl
@[simp] theorem answer_intsEn (v : Byte) : (s.answer v).intsEn = s.intsEn := rfl
@[simp] theorem answer_outEn (v : Byte) : (s.answer v).outEn = s.outEn := rfl
@[simp] theorem answer_afcEn (v : Byte) : (s.answer v).afcEn = s.afcEn := rfl
@[simp] theorem answer_linksB (v : Byte) : (s.answer v).linksB = s.linksB := rfl
@[simp] theorem answer_rowPtr (v : Byte) : (s.answer v).rowPtr = s.rowPtr := rfl
@[simp] theorem answer_colPtr (v : Byte) : (s.answer v).colPtr = s.colPtr := rfl
@[simp] theorem answer_rb (v : Byte) : (s.answer v).rb = s.rb := rfl
@[simp] theorem answer_irq (v : Byte) : (s.answer v).irq = s.irq := rfl
@[simp] theorem answer_cfg (v : Byte) : (s.answer v).cfg = s.cfg := rfl
@[simp] theorem answer_pastEnd (v : Byte) : (s.answer v).pastEnd = s.pastEnd := rfl
@[simp] theorem answer_returned (v : Byte) : (s.answer v).returned = some v := rfl
@[simp] theorem answer_feed (v : Byte) : (s.answer v).feed = s.feed := rfl
@[simp] theorem answer_rb0 (v : Byte) : (s.answer v).rb0 = s.rb0 := rfl
@[simp] theorem answer_pending (v : Byte) : (s.answer v).pending = s.pending := rfl

/-! ### `storeAtCursor` -/

@[simp] theorem storeAtCursor_enabled (d : Byte) : (s.storeAtCursor d).enabled = s.enabled := rfl
@[simp] theorem storeAtCursor_fsyn (d : Byte) : (s.storeAtCursor d).fsyn = s.fsyn := rfl
@[simp] theorem storeAtCursor_dew (d : Byte) : (s.storeAtCursor d).dew = s.dew := rfl
@[simp] theorem storeAtCursor_dor (d : Byte) : (s.storeAtCursor d).dor = s.dor := rfl
@[simp] theorem storeAtCursor_int (d : Byte) : (s.storeAtCursor d).int = s.int := rfl
@[simp] theorem storeAtCursor_channel (d : Byte) : (s.storeAtCursor d).channel = s.channel := rfl
@[simp] theorem storeAtCursor_intsEn (d : Byte) : (s.storeAtCursor d).intsEn = s.intsEn := rfl
@[simp] theorem storeAtCursor_outEn (d : Byte) : (s.storeAtCursor d).outEn = s.outEn := rfl
@[simp] theorem storeAtCursor_afcEn (d : Byte) : (s.storeAtCursor d).afcEn = s.afcEn := rfl
@[simp] theorem storeAtCursor_linksB (d : Byte) : (s.storeAtCursor d).linksB = s.linksB := rfl
@[simp] theorem storeAtCursor_rowPtr (d : Byte) : (s.storeAtCursor d).rowPtr = s.rowPtr := rfl
@[simp] theorem storeAtCursor_colPtr (d : Byte) : (s.storeAtCursor d).colPtr = s.colPtr := rfl
@[simp] theorem storeAtCursor_rb (d : Byte) : (s.storeAtCursor d).rb = s.rb.write s.cursorAddr d := rfl
@[simp] theorem storeAtCursor_irq (d : Byte) : (s.storeAtCursor d).irq = s.irq := rfl
@[simp] theorem storeAtCursor_cfg (d : Byte) : (s.storeAtCursor d).cfg = s.cfg := rfl
@[simp] theorem storeAtCursor_pastEnd (d : Byte) : (s.storeAtCursor d).pastEnd = s.pastEnd := rfl
@[simp] theorem storeAtCursor_returned (d : Byte) : (s.storeAtCursor d).returned = s.returned := rfl
@[simp] theorem storeAtCursor_feed (d : Byte) : (s.storeAtCursor d).feed = s.feed := rfl
@[simp] theorem storeAtCursor_rb0 (d : Byte) : (s.storeAtCursor d).rb0 = s.rb0 := rfl
@[simp] theorem storeAtCursor_pending (d : Byte) : (s.storeAtCursor d).pending = s.pending := rfl

/-! ### `clearAccess` -/

@[simp] theorem clearAccess_enabled : (s.clearAccess).enabled = s.enabled := rfl
@[simp] theorem clearAccess_fsyn : (s.clearAccess).fsyn = (s.fsyn && !s.cfg.clearMask.getLsbD 4) := rfl
@[simp] theorem clearAccess_dew : (s.clearAccess).dew = (s.dew && !s.cfg.clearMask.getLsbD 5) := rfl
@[simp] theorem clearAccess_dor : (s.clearAccess).dor = (s.dor && !s.cfg.clearMask.getLsbD 6) := rfl
@[simp] theorem clearAccess_int : (s.clearAccess).int = (s.int && !s.cfg.clearMask.getLsbD 7) := rfl
@[simp] theorem clearAccess_channel : (s.clearAccess).channel = s.channel := rfl
@[simp] theorem clearAccess_intsEn : (s.clearAccess).intsEn = s.intsEn := rfl
@[simp] theorem clearAccess_outEn : (s.clearAccess).outEn = s.outEn := rfl
@[simp] theorem clearAccess_afcEn : (s.clearAccess).afcEn = s.afcEn := rfl
@[simp] theorem clearAccess_linksB : (s.clearAccess).linksB = s.linksB := rfl
@[simp] theorem clearAccess_rowPtr : (s.clearAccess).rowPtr = s.rowPtr := rfl
@[simp] theorem clearAccess_colPtr : (s.clearAccess).colPtr = s.colPtr := rfl
@[simp] theorem clearAccess_rb : (s.clearAccess).rb = s.rb := rfl
@[simp] theorem clearAccess_irq : (s.clearAccess).irq = false := rfl
@[simp] theorem clearAccess_cfg : (s.clearAccess).cfg = s.cfg := rfl
@[simp] theorem clearAccess_pastEnd : (s.clearAccess).pastEnd = s.pastEnd := rfl
@[simp] theorem clearAccess_returned : (s.clearAccess).returned = s.returned := rfl
@[simp] theorem clearAccess_feed : (s.clearAccess).feed = s.feed := rfl
@[simp] theorem clearAccess_rb0 : (s.clearAccess).rb0 = s.rb0 := rfl
@[simp] theorem clearAccess_pending : (s.clearAccess).pending = s.pending := rfl

/-! ### `loadControl` -/

@[simp] theorem loadControl_enabled (d : Byte) : (s.loadControl d).enabled = s.enabled := rfl
@[simp] theorem loadControl_fsyn (d : Byte) : (s.loadControl d).fsyn = s.fsyn := rfl
@[simp] theorem loadControl_dew (d : Byte) : (s.loadControl d).dew = s.dew := rfl
@[simp] theorem loadControl_dor (d : Byte) : (s.loadControl d).dor = s.dor := rfl
@[simp] theorem loadControl_int (d : Byte) : (s.loadControl d).int = s.int := rfl
@[simp] theorem loadControl_channel (d : Byte) : (s.loadControl d).channel = channelField s.cfg.layout d := rfl
@[simp] theorem loadControl_intsEn (d : Byte) : (s.loadControl d).intsEn = bitField s.cfg.layout.intsEn d := rfl
@[simp] theorem loadControl_outEn (d : Byte) : (s.loadControl d).outEn = bitField s.cfg.layout.outEn d := rfl
@[simp] theorem loadControl_afcEn (d : Byte) : (s.loadControl d).afcEn = bitField s.cfg.layout.afcEn d := rfl
@[simp] theorem loadControl_linksB (d : Byte) : (s.loadControl d).linksB = bitField s.cfg.layout.linksB d := rfl
@[simp] theorem loadControl_rowPtr (d : Byte) : (s.loadControl d).rowPtr = s.rowPtr := rfl
@[simp] theorem loadControl_colPtr (d : Byte) : (s.loadControl d).colPtr = s.colPtr := rfl
@[simp] theorem loadControl_rb (d : Byte) : (s.loadControl d).rb = s.rb := rfl
@[simp] theorem loadControl_irq (d : Byte) : (s.loadControl d).irq = s.irq := rfl
@[simp] theorem loadControl_cfg (d : Byte) : (s.loadControl d).cfg = s.cfg := rfl
@[simp] theorem loadControl_pastEnd (d : Byte) : (s.loadControl d).pastEnd = s.pastEnd := rfl
@[simp] theorem loadControl_returned (d : Byte) : (s.loadControl d).returned = s.returned := rfl
@[simp] theorem loadControl_feed (d : Byte) : (s.loadControl d).feed = s.feed := rfl
@[simp] theorem loadControl_rb0 (d : Byte) : (s.loadControl d).rb0 = s.rb0 := rfl
@[simp] theorem loadControl_pending (d : Byte) : (s.loadControl d).pending = s.pending := rfl

/-! ### `recomputeIrq` -/

@[simp] theorem recomputeIrq_enabled : (s.recomputeIrq).enabled = s.enabled := rfl
@[simp] theorem recomputeIrq_fsyn : (s.recomputeIrq).fsyn = s.fsyn := rfl
@[simp] theorem recomputeIrq_dew : (s.recomputeIrq).dew = s.dew := rfl
@[simp] theorem recomputeIrq_dor : (s.recomputeIrq).dor = s.dor := rfl
@[simp] theorem recomputeIrq_int : (s.recomputeIrq).int = s.int := rfl
@[simp] theorem recomputeIrq_channel : (s.recomputeIrq).channel = s.channel := rfl
@[simp] theorem recomputeIrq_intsEn : (s.recomputeIrq).intsEn = s.intsEn := rfl
@[simp] theorem recomputeIrq_outEn : (s.recomputeIrq).outEn = s.outEn := rfl
@[simp] theorem recomputeIrq_afcEn : (s.recomputeIrq).afcEn = s.afcEn := rfl
@[simp] theorem recomputeIrq_linksB : (s.recomputeIrq).linksB = s.linksB := rfl
@[simp] theorem recomputeIrq_rowPtr : (s.recomputeIrq).rowPtr = s.rowPtr := rfl
@[simp] theorem recomputeIrq_colPtr : (s.recomputeIrq).colPtr = s.colPtr := rfl
@[simp] theorem recomputeIrq_rb : (s.recomputeIrq).rb = s.rb := rfl
@[simp] theorem recomputeIrq_irq : (s.recomputeIrq).irq = (s.intsEn && s.int) := rfl
@[simp] theorem recomputeIrq_cfg : (s.recomputeIrq).cfg = s.cfg := rfl
@[simp] theorem recomputeIrq_pastEnd : (s.recomputeIrq).pastEnd = s.pastEnd := rfl
@[simp] theorem recomputeIrq_returned : (s.recomputeIrq).returned = s.returned := rfl
@[simp] theorem recomputeIrq_feed : (s.recomputeIrq).feed = s.feed := rfl
@[simp] theorem recomputeIrq_rb0 : (s.recomputeIrq).rb0 = s.rb0 := rfl
@[simp] theorem recomputeIrq_pending : (s.recomputeIrq).pending = s.pending := rfl

/-! ### `loadResetValues` -/

@[simp] theorem loadResetValues_enabled : (s.loadResetValues).enabled = s.enabled := rfl
@[simp] theorem loadResetValues_fsyn : (s.loadResetValues).fsyn = s.cfg.statusReset.getLsbD 4 := rfl
@[simp] theorem loadResetValues_dew : (s.loadResetValues).dew = s.cfg.statusReset.getLsbD 5 := rfl
@[simp] theorem loadResetValues_dor : (s.loadResetValues).dor = s.cfg.statusReset.getLsbD 6 := rfl
@[simp] theorem loadResetValues_int : (s.loadResetValues).int = s.cfg.statusReset.getLsbD 7 := rfl
@[simp] theorem loadResetValues_channel : (s.loadResetValues).channel = 0#2 := rfl
@[simp] theorem loadResetValues_intsEn : (s.loadResetValues).intsEn = false := rfl
@[simp] theorem loadResetValues_outEn : (s.loadResetValues).outEn = false := rfl
@[simp] theorem loadResetValues_afcEn : (s.loadResetValues).afcEn = false := rfl
@[simp] theorem loadResetValues_linksB : (s.loadResetValues).linksB = false := rfl
@[simp] theorem loadResetValues_rowPtr : (s.loadResetValues).rowPtr = 0 := rfl
@[simp] theorem loadResetValues_colPtr : (s.loadResetValues).colPtr = 0 := rfl
@[simp] theorem loadResetValues_rb : (s.loadResetValues).rb = s.rb := rfl
@[simp] theorem loadResetValues_irq : (s.loadResetValues).irq = false := rfl
@[simp] theorem loadResetValues_cfg : (s.loadResetValues).cfg = s.cfg := rfl
@[simp] theorem loadResetValues_pastEnd : (s.loadResetValues).pastEnd = false := rfl
@[simp] theorem loadResetValues_returned : (s.loadResetValues).returned = s.returned := rfl
@[simp] theorem loadResetValues_feed : (s.loadResetValues).feed = s.feed := rfl
@[simp] theorem loadResetValues_rb0 : (s.loadResetValues).rb0 = s.rb0 := rfl
@[simp] theorem loadResetValues_pending : (s.loadResetValues).pending = s.pending := rfl

/-! ### `takeInputs` -/

@[simp] theorem takeInputs_enabled (e : Event) : (s.takeInputs e).enabled = s.enabled := rfl
@[simp] theorem takeInputs_fsyn (e : Event) : (s.takeInputs e).fsyn = s.fsyn := rfl
@[simp] theorem takeInputs_dew (e : Event) : (s.takeInputs e).dew = s.dew := rfl
@[simp] theorem takeInputs_dor (e : Event) : (s.takeInputs e).dor = s.dor := rfl
@[simp] theorem takeInputs_int (e : Event) : (s.takeInputs e).int = s.int := rfl
@[simp] theorem takeInputs_channel (e : Event) : (s.takeInputs e).channel = s.channel := rfl
@[simp] theorem takeInputs_intsEn (e : Event) : (s.takeInputs e).intsEn = s.intsEn := rfl
@[simp] theorem takeInputs_outEn (e : Event) : (s.takeInputs e).outEn = s.outEn := rfl
@[simp] theorem takeInputs_afcEn (e : Event) : (s.takeInputs e).afcEn = s.afcEn := rfl
@[simp] theorem takeInputs_linksB (e : Event) : (s.takeInputs e).linksB = s.linksB := rfl
@[simp] theorem takeInputs_rowPtr (e : Event) : (s.takeInputs e).rowPtr = s.rowPtr := rfl
@[simp] theorem takeInputs_colPtr (e : Event) : (s.takeInputs e).colPtr = s.colPtr := rfl
@[simp] theorem takeInputs_rb (e : Event) : (s.takeInputs e).rb = s.rb := rfl
@[simp] theorem takeInputs_irq (e : Event) : (s.takeInputs e).irq = s.irq := rfl
@[simp] theorem takeInputs_cfg (e : Event) : (s.takeInputs e).cfg = s.cfg := rfl
@[simp] theorem takeInputs_pastEnd (e : Event) : (s.takeInputs e).pastEnd = s.pastEnd := rfl
@[simp] theorem takeInputs_returned (e : Event) : (s.takeInputs e).returned = none := rfl
@[simp] theorem takeInputs_feed (e : Event) : (s.takeInputs e).feed = e.feed := rfl
@[simp] theorem takeInputs_rb0 (e : Event) : (s.takeInputs e).rb0 = e.rb0 := rfl
@[simp] theorem takeInputs_pending (e : Event) : (s.takeInputs e).pending = s.pending := rfl

/-! ### `withPending` -/

@[simp] theorem withPending_enabled (es : List Event) : (s.withPending es).enabled = s.enabled := rfl
@[simp] theorem withPending_fsyn (es : List Event) : (s.withPending es).fsyn = s.fsyn := rfl
@[simp] theorem withPending_dew (es : List Event) : (s.withPending es).dew = s.dew := rfl
@[simp] theorem withPending_dor (es : List Event) : (s.withPending es).dor = s.dor := rfl
@[simp] theorem withPending_int (es : List Event) : (s.withPending es).int = s.int := rfl
@[simp] theorem withPending_channel (es : List Event) : (s.withPending es).channel = s.channel := rfl
@[simp] theorem withPending_intsEn (es : List Event) : (s.withPending es).intsEn = s.intsEn := rfl
@[simp] theorem withPending_outEn (es : List Event) : (s.withPending es).outEn = s.outEn := rfl
@[simp] theorem withPending_afcEn (es : List Event) : (s.withPending es).afcEn = s.afcEn := rfl
@[simp] theorem withPending_linksB (es : List Event) : (s.withPending es).linksB = s.linksB := rfl
@[simp] theorem withPending_rowPtr (es : List Event) : (s.withPending es).rowPtr = s.rowPtr := rfl
@[simp] theorem withPending_colPtr (es : List Event) : (s.withPending es).colPtr = s.colPtr := rfl
@[simp] theorem withPending_rb (es : List Event) : (s.withPending es).rb = s.rb := rfl
@[simp] theorem withPending_irq (es : List Event) : (s.withPending es).irq = s.irq := rfl
@[simp] theorem withPending_cfg (es : List Event) : (s.withPending es).cfg = s.cfg := rfl
@[simp] theorem withPending_pastEnd (es : List Event) : (s.withPending es).pastEnd = s.pastEnd := rfl
@[simp] theorem withPending_returned (es : List Event) : (s.withPending es).returned = s.returned := rfl
@[simp] theorem withPending_feed (es : List Event) : (s.withPending es).feed = s.feed := rfl
@[simp] theorem withPending_rb0 (es : List Event) : (s.withPending es).rb0 = s.rb0 := rfl
@[simp] theorem withPending_pending (es : List Event) : (s.withPending es).pending = es := rfl

end Sys2Proof.Machine.State
end

