-- ==== Sys2Proof/Laws/Flags.lean ====
section
/-! SUPPORT. The status byte's bits and the operand fields, said once (10_state.md R22; 30_encoding.md R86). -/

namespace Sys2Proof.Machine

@[simp] theorem statusByte_links (s : State) : (statusByte s).extractLsb' 0 4 = s.cfg.links := by
  simp only [statusByte]
  apply BitVec.eq_of_getLsbD_eq
  intro i hi
  simp only [BitVec.getLsbD_extractLsb', BitVec.getLsbD_append]
  simp [hi]

@[simp] theorem statusByte_fsyn (s : State) : (statusByte s)[4] = s.fsyn := by
  simp only [← BitVec.getLsbD_eq_getElem, statusByte, BitVec.getLsbD_append]
  simp

@[simp] theorem statusByte_dew (s : State) : (statusByte s)[5] = s.dew := by
  simp only [← BitVec.getLsbD_eq_getElem, statusByte, BitVec.getLsbD_append]
  simp

@[simp] theorem statusByte_dor (s : State) : (statusByte s)[6] = s.dor := by
  simp only [← BitVec.getLsbD_eq_getElem, statusByte, BitVec.getLsbD_append]
  simp

@[simp] theorem statusByte_int (s : State) : (statusByte s)[7] = s.int := by
  simp only [← BitVec.getLsbD_eq_getElem, statusByte, BitVec.getLsbD_append]
  simp

/-- Usable parameters: STICKY_MASK is bits 7, 6 and 4 (00_scope.md R10). -/
theorem stickyMask_of_wf {c : Params} (h : c.wf = true) : c.stickyMask = 0xD0#8 := by
  simp only [Params.wf, Bool.and_eq_true, decide_eq_true_eq] at h
  exact h.1.2

/-- Usable parameters: the reset latch has no sticky flag (00_scope.md R10). -/
theorem statusReset_flag_of_wf {c : Params} (h : c.wf = true) {n : Nat} (hn : 4 ≤ n) (hn' : n < 8) :
    c.statusReset.getLsbD n = false := by
  simp only [Params.wf, Bool.and_eq_true, decide_eq_true_eq] at h
  rw [h.1.1.2, BitVec.getLsbD_append]
  have h4 : ¬ n < 4 := by omega
  simp [h4]

/-- Usable parameters: the Status write layout is usable. -/
theorem layout_of_wf {c : Params} (h : c.wf = true) : c.layout.wf = true := by
  simp only [Params.wf, Bool.and_eq_true, decide_eq_true_eq] at h
  exact h.2

/-- What usable parameters say of the dimensions and the widths (00_scope.md R10), as equations on numbers. -/
theorem dimensions_of_wf {c : Params} (h : c.wf = true) :
    c.k = c.nrows * c.reclen ∧ 0 < c.reclen ∧ 1 + c.reclen ≤ c.ncols ∧ c.nrows = 2 ^ c.rowBits ∧
      c.ncols = 2 ^ c.colBits ∧ c.rowBits ≤ 8 ∧ c.dataBits = 8 ∧ c.portBits = 2 ∧ c.nchan = 4 := by
  simp only [Params.wf, Params.dimensionsAgree, Params.formatsAgree, Bool.and_eq_true, decide_eq_true_eq] at h
  omega

/-- A row number fits the written byte. -/
theorem nrows_le_of_wf {c : Params} (h : c.wf = true) : c.nrows ≤ 256 := by
  obtain ⟨-, -, -, hr, -, h8, -⟩ := dimensions_of_wf h
  rw [hr]
  exact Nat.pow_le_pow_right (by omega) h8

/-- The row a Row write selects is D modulo the number of rows. -/
theorem rowField_of_wf {c : Params} (h : c.wf = true) (d : Byte) : rowField c d = d.toNat % c.nrows := by
  rw [rowField, (dimensions_of_wf h).2.2.2.1]

/-- The row a Row write selects is a row. -/
theorem rowField_lt {c : Params} (h : c.wf = true) (d : Byte) : rowField c d < c.nrows := by
  rw [(dimensions_of_wf h).2.2.2.1]
  exact Nat.mod_lt _ (Nat.two_pow_pos _)

/-- The next column is the column plus one, modulo the number of columns. -/
theorem nextCol_of_wf {c : Params} (h : c.wf = true) (col : Nat) : nextCol c col = (col + 1) % c.ncols := by
  rw [nextCol, (dimensions_of_wf h).2.2.2.2.1]

/-- The next column is a column. -/
theorem nextCol_lt {c : Params} (h : c.wf = true) (col : Nat) : nextCol c col < c.ncols := by
  rw [(dimensions_of_wf h).2.2.2.2.1]
  exact Nat.mod_lt _ (Nat.two_pow_pos _)

end Sys2Proof.Machine
end

