-- ==== Sys2Proof/Laws/Memory.lean ====
section
/-! SUPPORT. The laws of the RowBuffer's list form: read after write, and that every memory operation keeps the canonical
form. -/

namespace Sys2Proof.Machine

namespace Memory

/-- A write leaves every other address alone, whatever the form of the list. -/
theorem read_write_other (m : Memory) {a x : Nat} (v : Byte) (h : x ≠ a) : (m.write a v).read x = m.read x := by
  induction m with
  | nil =>
    simp only [write]
    split
    · rfl
    · simp [read, Ne.symm h]
  | cons c rest ih =>
    obtain ⟨k, w⟩ := c
    simp only [write]
    split
    · split
      · rfl
      · simp [read, Ne.symm h]
    · split
      · subst a
        split <;> simp [read, Ne.symm h]
      · simp [read, ih]

/-- An address below a canonical list reads as unlisted. -/
theorem read_of_lt {size lo a : Nat} {m : Memory} (hm : wfFrom size lo m = true) (ha : a < lo) : m.read a = unlisted := by
  induction m generalizing lo with
  | nil => rfl
  | cons c rest ih =>
    obtain ⟨k, w⟩ := c
    simp only [wfFrom, Bool.and_eq_true, decide_eq_true_eq] at hm
    have hka : k ≠ a := by omega
    simp only [read, hka, if_false]
    exact ih hm.2 (by omega)

/-- A write to an address is read back there. -/
theorem read_write_same {size lo : Nat} {m : Memory} (hm : wfFrom size lo m = true) (a : Nat) (v : Byte) :
    (m.write a v).read a = v := by
  induction m generalizing lo with
  | nil =>
    simp only [write]
    split
    · next h => simp [read, h]
    · simp [read]
  | cons c rest ih =>
    obtain ⟨k, w⟩ := c
    have hm' := hm
    simp only [wfFrom, Bool.and_eq_true, decide_eq_true_eq] at hm
    simp only [write]
    split
    · next hak =>
      split
      · next hv =>
        have hka : k ≠ a := by omega
        simp only [read, hka, if_false]
        rw [read_of_lt hm.2 (by omega), hv]
      · simp [read]
    · split
      · next hak =>
        subst hak
        split
        · next hv => rw [read_of_lt hm.2 (by omega), hv]
        · simp [read]
      · next hak =>
        have hka : k ≠ a := fun h => hak h.symm
        simp [read, hka, ih hm.2]

/-- Read after write, at every address. -/
theorem read_write {c : Params} {m : Memory} (hm : m.wf c = true) (a x : Nat) (v : Byte) :
    (m.write a v).read x = if x = a then v else m.read x := by
  split
  · next h => subst h; exact read_write_same hm x v
  · next h => exact read_write_other m v h

/-- A canonical list is canonical from any lower address on. -/
theorem wfFrom_mono {size lo lo' : Nat} {m : Memory} (hm : wfFrom size lo m = true) (h : lo' ≤ lo) :
    wfFrom size lo' m = true := by
  cases m with
  | nil => rfl
  | cons c rest =>
    obtain ⟨k, w⟩ := c
    simp only [wfFrom, Bool.and_eq_true, decide_eq_true_eq] at hm ⊢
    exact ⟨⟨⟨by omega, hm.1.1.2⟩, hm.1.2⟩, hm.2⟩

theorem wfFrom_write {size lo : Nat} {m : Memory} (hm : wfFrom size lo m = true) {a : Nat} (hlo : lo ≤ a)
    (ha : a < size) (v : Byte) : wfFrom size lo (m.write a v) = true := by
  induction m generalizing lo with
  | nil =>
    simp only [write]
    split
    · rfl
    · next hv => simp only [wfFrom, Bool.and_eq_true, decide_eq_true_eq]; exact ⟨⟨⟨hlo, ha⟩, hv⟩, trivial⟩
  | cons c rest ih =>
    obtain ⟨k, w⟩ := c
    have hm' := hm
    simp only [wfFrom, Bool.and_eq_true, decide_eq_true_eq] at hm
    simp only [write]
    split
    · next hak =>
      split
      · exact hm'
      · next hv =>
        simp only [wfFrom, Bool.and_eq_true, decide_eq_true_eq]
        exact ⟨⟨⟨hlo, ha⟩, hv⟩, ⟨⟨by omega, hm.1.1.2⟩, hm.1.2⟩, hm.2⟩
    · split
      · next hak =>
        subst hak
        split
        · exact wfFrom_mono hm.2 (by omega)
        · next hv =>
          simp only [wfFrom, Bool.and_eq_true, decide_eq_true_eq]
          exact ⟨⟨⟨hlo, ha⟩, hv⟩, hm.2⟩
      · simp only [wfFrom, Bool.and_eq_true, decide_eq_true_eq]
        exact ⟨⟨⟨hm.1.1.1, hm.1.1.2⟩, hm.1.2⟩, ih hm.2 (by omega)⟩

/-- A write inside the RowBuffer keeps the canonical form. -/
theorem wf_write {c : Params} {m : Memory} (hm : m.wf c = true) {a : Nat} (ha : a < c.rbSize) (v : Byte) :
    (m.write a v).wf c = true :=
  wfFrom_write hm (Nat.zero_le a) ha v

end Memory

/-- The address of a byte of the RowBuffer lies in the RowBuffer. -/
theorem rbAddr_lt {c : Params} {row col : Nat} (hr : row < c.nrows) (hc : col < c.ncols) : rbAddr c row col < c.rbSize := by
  have h : (row + 1) * c.ncols ≤ c.nrows * c.ncols := Nat.mul_le_mul_right _ hr
  rw [Nat.add_mul, Nat.one_mul] at h
  simp only [rbAddr, Params.rbSize]
  omega

/-- An address gives back its row. -/
theorem rbAddr_div {c : Params} (row : Nat) {col : Nat} (hc : col < c.ncols) : rbAddr c row col / c.ncols = row := by
  rw [rbAddr, Nat.mul_comm, Nat.mul_add_div (by omega), Nat.div_eq_of_lt hc, Nat.add_zero]

/-- An address gives back its column. -/
theorem rbAddr_mod {c : Params} (row : Nat) {col : Nat} (hc : col < c.ncols) : rbAddr c row col % c.ncols = col := by
  rw [rbAddr, Nat.mul_comm, Nat.mul_add_mod, Nat.mod_eq_of_lt hc]

/-- Bytes of different rows, or of different columns, have different addresses. -/
theorem rbAddr_ne {c : Params} {r r' col col' : Nat} (hc : col < c.ncols) (hc' : col' < c.ncols)
    (h : r ≠ r' ∨ col ≠ col') : rbAddr c r col ≠ rbAddr c r' col' := by
  intro e
  rcases h with h | h
  · exact h (by rw [← rbAddr_div r hc, e, rbAddr_div r' hc'])
  · exact h (by rw [← rbAddr_mod r hc, e, rbAddr_mod r' hc'])

end Sys2Proof.Machine
end

