-- ==== Sys2Proof/Laws/Merge.lean ====
section
/-! SUPPORT. What the row merge does to every byte of the RowBuffer (41_poll_bridge.md R145), said once. -/

namespace Sys2Proof.Machine

variable {c : Params} {m : Memory}

/-- A fold of writes inside the RowBuffer keeps the canonical form. -/
theorem wf_foldl_write {α : Type} (f : α → Nat) (g : α → Byte) (js : List α) (hm : m.wf c = true)
    (hf : ∀ j ∈ js, f j < c.rbSize) : (js.foldl (fun m' j => m'.write (f j) (g j)) m).wf c = true := by
  induction js generalizing m with
  | nil => exact hm
  | cons j js ih =>
    exact ih (Memory.wf_write hm (hf j List.mem_cons_self) (g j)) fun j' h => hf j' (List.mem_cons_of_mem _ h)

theorem wf_refreshRow (hc : c.wf = true) (p : Payload) (hm : m.wf c = true) {i : Nat} (hi : i < c.nrows) :
    (refreshRow c p m i).wf c = true := by
  have hd := dimensions_of_wf hc
  refine wf_foldl_write _ _ _ (Memory.wf_write hm (rbAddr_lt hi (by omega)) _) ?_
  intro j hj
  have hj' := List.mem_range.mp hj
  exact rbAddr_lt hi (by omega)

theorem wf_mergeRow (hc : c.wf = true) (p : Payload) (hm : m.wf c = true) {i : Nat} (hi : i < c.nrows) :
    (mergeRow c p m i).wf c = true := by
  unfold mergeRow
  split
  · exact hm
  · exact wf_refreshRow hc p hm hi

theorem wf_foldl_mergeRow (hc : c.wf = true) (p : Payload) {is : List Nat} (hm : m.wf c = true)
    (his : ∀ i ∈ is, i < c.nrows) : (is.foldl (mergeRow c p) m).wf c = true := by
  induction is generalizing m with
  | nil => exact hm
  | cons i is ih =>
    exact ih (wf_mergeRow hc p hm (his i List.mem_cons_self)) fun i' h => his i' (List.mem_cons_of_mem _ h)

/-- The merge keeps the canonical form. -/
theorem wf_mergePayload (hc : c.wf = true) (p : Payload) (hm : m.wf c = true) : (mergePayload c p m).wf c = true :=
  wf_foldl_mergeRow hc p hm fun _ => List.mem_range.mp

/-- A fold of writes at addresses that differ from x leaves x alone. -/
theorem read_foldl_other {α : Type} (f : α → Nat) (g : α → Byte) (js : List α) (m : Memory) {x : Nat}
    (hx : ∀ j ∈ js, f j ≠ x) : (js.foldl (fun m' j => m'.write (f j) (g j)) m).read x = m.read x := by
  induction js generalizing m with
  | nil => rfl
  | cons j js ih =>
    rw [List.foldl_cons, ih _ fun j' h => hx j' (List.mem_cons_of_mem _ h)]
    exact Memory.read_write_other m _ (Ne.symm (hx j List.mem_cons_self))

/-- A fold of writes at distinct addresses inside the RowBuffer leaves each of its bytes in place. -/
theorem read_foldl_same {α : Type} (f : α → Nat) (g : α → Byte) {js : List α} (hm : m.wf c = true)
    (hf : ∀ j ∈ js, f j < c.rbSize) (hnd : js.Pairwise fun a b => f a ≠ f b) {j : α} (hj : j ∈ js) :
    (js.foldl (fun m' j => m'.write (f j) (g j)) m).read (f j) = g j := by
  induction js generalizing m with
  | nil => cases hj
  | cons k js ih =>
    rw [List.pairwise_cons] at hnd
    rw [List.foldl_cons]
    rcases List.mem_cons.mp hj with rfl | hj
    · rw [read_foldl_other f g js _ fun j' h => Ne.symm (hnd.1 j' h)]
      exact Memory.read_write_same hm _ _
    · exact ih (Memory.wf_write hm (hf k List.mem_cons_self) (g k)) (fun j h => hf j (List.mem_cons_of_mem _ h)) hnd.2 hj

/-- Column 0 of a refreshed row holds the marker. -/
theorem read_refreshRow_marker (hc : c.wf = true) (p : Payload) (hm : m.wf c = true) (i : Nat) :
    (refreshRow c p m i).read (rbAddr c i 0) = c.marker := by
  have hd := dimensions_of_wf hc
  unfold refreshRow
  rw [read_foldl_other]
  · exact Memory.read_write_same hm _ _
  · intro j hj
    have hj' := List.mem_range.mp hj
    exact rbAddr_ne (by omega) (by omega) (.inr (by omega))

/-- Columns 1..RECLEN of a refreshed row hold the record. -/
theorem read_refreshRow_record (hc : c.wf = true) (p : Payload) (hm : m.wf c = true) {i j : Nat} (hi : i < c.nrows)
    (hj : j < c.reclen) : (refreshRow c p m i).read (rbAddr c i (1 + j)) = recordByte c p i j := by
  have hd := dimensions_of_wf hc
  refine read_foldl_same (fun j => rbAddr c i (1 + j)) (recordByte c p i)
    (Memory.wf_write hm (rbAddr_lt hi (by omega)) _) ?_ ?_ (List.mem_range.mpr hj)
  · intro j' h
    have hj' := List.mem_range.mp h
    exact rbAddr_lt hi (by omega)
  · refine List.Pairwise.imp_of_mem ?_ List.nodup_range
    intro a b ha hb hab
    have ha' := List.mem_range.mp ha
    have hb' := List.mem_range.mp hb
    exact rbAddr_ne (by omega) (by omega) (.inr (by omega))

/-- Every byte outside columns 0..RECLEN of row i is left alone by refreshing row i. -/
theorem read_refreshRow_other (hc : c.wf = true) (p : Payload) (m : Memory) {i x : Nat}
    (hx : x / c.ncols ≠ i ∨ c.reclen < x % c.ncols) : (refreshRow c p m i).read x = m.read x := by
  have hd := dimensions_of_wf hc
  have hne : ∀ col, col ≤ c.reclen → rbAddr c i col ≠ x := by
    intro col hcol e
    have h1 : rbAddr c i col / c.ncols = i := rbAddr_div i (by omega)
    have h2 : rbAddr c i col % c.ncols = col := rbAddr_mod i (by omega)
    rw [e] at h1 h2
    omega
  unfold refreshRow
  rw [read_foldl_other]
  · exact Memory.read_write_other m _ (Ne.symm (hne 0 (Nat.zero_le _)))
  · intro j hj
    have hj' := List.mem_range.mp hj
    exact hne (1 + j) (by omega)

theorem read_mergeRow_other (hc : c.wf = true) (p : Payload) (m : Memory) {i x : Nat}
    (hx : x / c.ncols ≠ i ∨ c.reclen < x % c.ncols) : (mergeRow c p m i).read x = m.read x := by
  unfold mergeRow
  split
  · rfl
  · exact read_refreshRow_other hc p m hx

/-- Rows are decided independently: merging rows other than x's row, or columns past the record, leaves x alone. -/
theorem read_foldl_mergeRow_other (hc : c.wf = true) (p : Payload) {is : List Nat} (m : Memory) {x : Nat}
    (hx : ∀ i ∈ is, x / c.ncols ≠ i ∨ c.reclen < x % c.ncols) : (is.foldl (mergeRow c p) m).read x = m.read x := by
  induction is generalizing m with
  | nil => rfl
  | cons i is ih =>
    rw [List.foldl_cons, ih _ fun i' h => hx i' (List.mem_cons_of_mem _ h)]
    exact read_mergeRow_other hc p m (hx i List.mem_cons_self)

/-- What a row's own merge does depends on no other row: it commutes with any change of the memory at other addresses. -/
theorem read_mergeRow_congr (hc : c.wf = true) (p : Payload) {m m' : Memory} (hm : m.wf c = true) (hm' : m'.wf c = true)
    {i col : Nat} (hi : i < c.nrows) (hcol : col < c.ncols) (h : m.read (rbAddr c i col) = m'.read (rbAddr c i col)) :
    (mergeRow c p m i).read (rbAddr c i col) = (mergeRow c p m' i).read (rbAddr c i col) := by
  unfold mergeRow
  split
  · exact h
  · by_cases h0 : col = 0
    · subst h0
      rw [read_refreshRow_marker hc p hm, read_refreshRow_marker hc p hm']
    · by_cases hl : col ≤ c.reclen
      · obtain ⟨j, rfl⟩ : ∃ j, col = 1 + j := ⟨col - 1, by omega⟩
        rw [read_refreshRow_record hc p hm hi (by omega), read_refreshRow_record hc p hm' hi (by omega)]
      · have hx : rbAddr c i col / c.ncols ≠ i ∨ c.reclen < rbAddr c i col % c.ncols :=
          .inr (by rw [rbAddr_mod i hcol]; omega)
        rw [read_refreshRow_other hc p m hx, read_refreshRow_other hc p m' hx, h]

/-- One row's bytes after merging rows without repeats: as if its own merge alone had run. -/
theorem read_foldl_mergeRow_same (hc : c.wf = true) (p : Payload) {is : List Nat} (hm : m.wf c = true)
    (his : ∀ i ∈ is, i < c.nrows) (hnd : is.Nodup) {i : Nat} (hi : i ∈ is) {col : Nat} (hcol : col < c.ncols) :
    (is.foldl (mergeRow c p) m).read (rbAddr c i col) = (mergeRow c p m i).read (rbAddr c i col) := by
  induction is generalizing m with
  | nil => cases hi
  | cons k is ih =>
    rw [List.nodup_cons] at hnd
    rw [List.foldl_cons]
    have hk := his k List.mem_cons_self
    have his' : ∀ i ∈ is, i < c.nrows := fun i h => his i (List.mem_cons_of_mem _ h)
    rcases List.mem_cons.mp hi with rfl | hi
    · refine read_foldl_mergeRow_other hc p _ fun j hj => .inl ?_
      rw [rbAddr_div i hcol]
      exact fun e => hnd.1 (e ▸ hj)
    · rw [ih (wf_mergeRow hc p hm hk) his' hnd.2 hi]
      refine read_mergeRow_congr hc p (wf_mergeRow hc p hm hk) hm (his' i hi) hcol ?_
      refine read_mergeRow_other hc p m (.inl ?_)
      rw [rbAddr_div i hcol]
      exact fun e => hnd.1 (e ▸ hi)

/-- The merge at row i, column col: the row's own decision alone (R145). -/
theorem read_mergePayload (hc : c.wf = true) (p : Payload) (hm : m.wf c = true) {i col : Nat} (hi : i < c.nrows)
    (hcol : col < c.ncols) :
    (mergePayload c p m).read (rbAddr c i col) = (mergeRow c p m i).read (rbAddr c i col) :=
  read_foldl_mergeRow_same hc p hm (fun _ => List.mem_range.mp) List.nodup_range (List.mem_range.mpr hi) hcol

end Sys2Proof.Machine
end

