-- ==== Sys2Proof/Laws/Exec.lean ====
section
/-! SUPPORT. Everything each meaning can answer, one lemma per shared operation and one per meaning. A later proof cites
these and never unfolds a meaning. -/

namespace Sys2Proof.Machine

variable {s t : State} {r : Result}

/-- What a gated event can answer. -/
theorem gate_next (h : gate s r = .next t) : (s.enabled = true ∧ r = .next t) ∨ (s.enabled = false ∧ t = s) := by
  unfold gate at h
  split at h
  · next he => exact .inl ⟨he, h⟩
  · next he =>
    cases h
    exact .inr ⟨by simpa using he, rfl⟩

/-- What a gated read can answer. -/
theorem gateRead_next (h : gateRead s r = .next t) :
    (s.enabled = true ∧ r = .next t) ∨ (s.enabled = false ∧ t = s.answer s.cfg.sentinel) := by
  unfold gateRead at h
  split at h
  · next he => exact .inl ⟨he, h⟩
  · next he =>
    cases h
    exact .inr ⟨by simpa using he, rfl⟩

@[simp] theorem gate_enabled (h : s.enabled = true) : gate s r = r := by simp [gate, h]
@[simp] theorem gate_disabled (h : s.enabled = false) : gate s r = .next s := by simp [gate, h]
@[simp] theorem gateRead_enabled (h : s.enabled = true) : gateRead s r = r := by simp [gateRead, h]
@[simp] theorem gateRead_disabled (h : s.enabled = false) : gateRead s r = .next (s.answer s.cfg.sentinel) := by
  simp [gateRead, h]

theorem execRdStatus_next (h : execRdStatus s = .next t) :
    (s.enabled = true ∧ t = s.answer (statusByte s)) ∨ (s.enabled = false ∧ t = s.answer s.cfg.sentinel) := by
  rcases gateRead_next h with ⟨he, h⟩ | h
  · cases h; exact .inl ⟨he, rfl⟩
  · exact .inr h

theorem execRdRow_next (h : execRdRow s = .next t) :
    (s.enabled = true ∧ t = s.answer 0x00#8) ∨ (s.enabled = false ∧ t = s.answer s.cfg.sentinel) := by
  rcases gateRead_next h with ⟨he, h⟩ | h
  · cases h; exact .inl ⟨he, rfl⟩
  · exact .inr h

theorem execRdData_next (h : execRdData s = .next t) :
    (s.enabled = true ∧ s.refusesData = false ∧ t = s.advanceCol.answer (s.rb.read s.cursorAddr)) ∨
      (s.enabled = false ∧ t = s.answer s.cfg.sentinel) := by
  rcases gateRead_next h with ⟨he, h⟩ | h
  · split at h
    · cases h
    · next hr => cases h; exact .inl ⟨he, by simpa using hr, rfl⟩
  · exact .inr h

theorem execRdClear_next (h : execRdClear s = .next t) :
    (s.enabled = true ∧ t = s.clearAccess.answer 0x00#8) ∨ (s.enabled = false ∧ t = s.answer s.cfg.sentinel) := by
  rcases gateRead_next h with ⟨he, h⟩ | h
  · cases h; exact .inl ⟨he, rfl⟩
  · exact .inr h

theorem execWrStatus_next {d : Byte} (h : execWrStatus d s = .next t) :
    (s.enabled = true ∧ t = (s.loadControl d).recomputeIrq) ∨ (s.enabled = false ∧ t = s) := by
  rcases gate_next h with ⟨he, h⟩ | h
  · cases h; exact .inl ⟨he, rfl⟩
  · exact .inr h

theorem execWrRow_next {d : Byte} (h : execWrRow d s = .next t) :
    (s.enabled = true ∧ s.refusesRow d = false ∧ t = s.seekRow (rowField s.cfg d)) ∨ (s.enabled = false ∧ t = s) := by
  rcases gate_next h with ⟨he, h⟩ | h
  · split at h
    · cases h
    · next hr => cases h; exact .inl ⟨he, by simpa using hr, rfl⟩
  · exact .inr h

theorem execWrData_next {d : Byte} (h : execWrData d s = .next t) :
    (s.enabled = true ∧ s.refusesData = false ∧ t = (s.storeAtCursor d).advanceCol) ∨
      (s.enabled = false ∧ t = s) := by
  rcases gate_next h with ⟨he, h⟩ | h
  · split at h
    · cases h
    · next hr => cases h; exact .inl ⟨he, by simpa using hr, rfl⟩
  · exact .inr h

theorem execWrClear_next (d : Byte) (h : execWrClear d s = .next t) :
    (s.enabled = true ∧ t = s.clearAccess) ∨ (s.enabled = false ∧ t = s) := by
  rcases gate_next h with ⟨he, h⟩ | h
  · cases h; exact .inl ⟨he, rfl⟩
  · exact .inr h

theorem execPoll_next (h : execPoll s = .next t) :
    (s.enabled = true ∧ t = { s.latchDataReady with rb := mergedRb s, irq := pollIrq s.latchDataReady }) ∨
      (s.enabled = false ∧ t = s) := by
  rcases gate_next h with ⟨he, h⟩ | h
  · cases h; exact .inl ⟨he, rfl⟩
  · exact .inr h

theorem execReset_next (h : execReset s = .next t) :
    (s.enabled = true ∧ t = s.loadResetValues) ∨ (s.enabled = false ∧ t = s) := by
  rcases gate_next h with ⟨he, h⟩ | h
  · cases h; exact .inl ⟨he, rfl⟩
  · exact .inr h

theorem execEnable_next (h : execEnable s = .next t) :
    (s.enabled = true ∧ t = s) ∨
      (s.enabled = false ∧ t = { s.loadResetValues with enabled := true, rb := s.rb0 }) := by
  unfold execEnable at h
  split at h
  · next he => cases h; exact .inl ⟨he, rfl⟩
  · next he => cases h; exact .inr ⟨by simpa using he, rfl⟩

theorem execDisable_next (h : execDisable s = .next t) :
    (s.enabled = true ∧ t = { s with enabled := false }) ∨ (s.enabled = false ∧ t = s) := by
  rcases gate_next h with ⟨he, h⟩ | h
  · cases h; exact .inl ⟨he, rfl⟩
  · exact .inr h

/-- The latch step is the OR of STICKY_MASK, or nothing (41_poll_bridge.md R146). -/
theorem latchDataReady_cases (s : State) :
    (anyPayload s.cfg s.feed = true ∧ s.latchDataReady = s.setFlags s.cfg.stickyMask) ∨
      (anyPayload s.cfg s.feed = false ∧ s.latchDataReady = s) := by
  unfold State.latchDataReady
  split
  · next h => exact .inl ⟨h, rfl⟩
  · next h => exact .inr ⟨by simpa using h, rfl⟩

/-- The RowBuffer after a POLL's merge is the merge of the selected payload, or as it was. -/
theorem mergedRb_cases (s : State) :
    (∃ p, s.outEn = true ∧ selectedPayload s = some p ∧ mergedRb s = mergePayload s.cfg p s.rb) ∨
      ((s.outEn = false ∨ selectedPayload s = none) ∧ mergedRb s = s.rb) := by
  unfold mergedRb
  split
  · next ho =>
    split
    · next p hp => exact .inl ⟨p, ho, hp, rfl⟩
    · next hp => exact .inr ⟨.inr hp, rfl⟩
  · next ho => exact .inr ⟨.inl (by simpa using ho), rfl⟩

/-- Everything an event can do when it answers a next state, said once for all twelve. -/
theorem exec_cases {i : Instr} (h : exec i s = .next t) :
    (s.enabled = false ∧ i.isRead = true ∧ t = s.answer s.cfg.sentinel) ∨
    (s.enabled = false ∧ i.isRead = false ∧ i ≠ .enable ∧ t = s) ∨
    (s.enabled = true ∧ i = .rdStatus ∧ t = s.answer (statusByte s)) ∨
    (s.enabled = true ∧ i = .rdRow ∧ t = s.answer 0x00#8) ∨
    (s.enabled = true ∧ i = .rdData ∧ s.refusesData = false ∧
      t = s.advanceCol.answer (s.rb.read s.cursorAddr)) ∨
    (s.enabled = true ∧ i = .rdClear ∧ t = s.clearAccess.answer 0x00#8) ∨
    (s.enabled = true ∧ ∃ d, i = .wrStatus d ∧ t = (s.loadControl d).recomputeIrq) ∨
    (s.enabled = true ∧ ∃ d, i = .wrRow d ∧ s.refusesRow d = false ∧ t = s.seekRow (rowField s.cfg d)) ∨
    (s.enabled = true ∧ ∃ d, i = .wrData d ∧ s.refusesData = false ∧ t = (s.storeAtCursor d).advanceCol) ∨
    (s.enabled = true ∧ ∃ d, i = .wrClear d ∧ t = s.clearAccess) ∨
    (s.enabled = true ∧ i = .poll ∧ anyPayload s.cfg s.feed = true ∧
      t = { s.setFlags s.cfg.stickyMask with
        rb := mergedRb s, irq := pollIrq (s.setFlags s.cfg.stickyMask) }) ∨
    (s.enabled = true ∧ i = .poll ∧ anyPayload s.cfg s.feed = false ∧ t = { s with rb := mergedRb s, irq := pollIrq s }) ∨
    (s.enabled = true ∧ i = .reset ∧ t = s.loadResetValues) ∨
    (s.enabled = true ∧ i = .enable ∧ t = s) ∨
    (s.enabled = false ∧ i = .enable ∧ t = { s.loadResetValues with enabled := true, rb := s.rb0 }) ∨
    (s.enabled = true ∧ i = .disable ∧ t = { s with enabled := false }) := by
  cases i with
  | rdStatus => rcases execRdStatus_next h with ⟨_, rfl⟩ | ⟨_, rfl⟩ <;> simp [*, Instr.isRead]
  | rdRow => rcases execRdRow_next h with ⟨_, rfl⟩ | ⟨_, rfl⟩ <;> simp [*, Instr.isRead]
  | rdData => rcases execRdData_next h with ⟨_, _, rfl⟩ | ⟨_, rfl⟩ <;> simp [*, Instr.isRead]
  | rdClear => rcases execRdClear_next h with ⟨_, rfl⟩ | ⟨_, rfl⟩ <;> simp [*, Instr.isRead]
  | wrStatus d => rcases execWrStatus_next h with ⟨_, rfl⟩ | ⟨_, rfl⟩ <;> simp [*, Instr.isRead]
  | wrRow d => rcases execWrRow_next h with ⟨_, _, rfl⟩ | ⟨_, rfl⟩ <;> simp [*, Instr.isRead]
  | wrData d => rcases execWrData_next h with ⟨_, _, rfl⟩ | ⟨_, rfl⟩ <;> simp [*, Instr.isRead]
  | wrClear d => rcases execWrClear_next d h with ⟨_, rfl⟩ | ⟨_, rfl⟩ <;> simp [*, Instr.isRead]
  | poll =>
    rcases execPoll_next h with ⟨_, rfl⟩ | ⟨_, rfl⟩
    · rcases latchDataReady_cases s with ⟨ha, e⟩ | ⟨ha, e⟩ <;> rw [e] <;> simp [*, Instr.isRead]
    · simp [*, Instr.isRead]
  | reset => rcases execReset_next h with ⟨_, rfl⟩ | ⟨_, rfl⟩ <;> simp [*, Instr.isRead]
  | enable => rcases execEnable_next h with ⟨_, rfl⟩ | ⟨_, rfl⟩ <;> simp [*, Instr.isRead]
  | disable => rcases execDisable_next h with ⟨_, rfl⟩ | ⟨_, rfl⟩ <;> simp [*, Instr.isRead]

/-- A slot delivers exactly when it is one of the NCHAN slots and the feed has a payload there. -/
theorem slotPayload_eq_some {c : Params} {f : Feed} {n : Nat} {p : Payload} :
    slotPayload c f n = some p ↔ n < c.nchan ∧ f[n]? = some (some p) := by
  unfold slotPayload
  rw [Option.join_eq_some_iff, List.getElem?_take]
  split <;> simp [*]

/-- A payload on some slot, slot by slot. -/
theorem anyPayload_iff {c : Params} {f : Feed} :
    anyPayload c f = true ↔ ∃ (n : Nat) (p : Payload), n < c.nchan ∧ f[n]? = some (some p) := by
  unfold anyPayload
  rw [List.any_eq_true]
  constructor
  · rintro ⟨x, hx, hs⟩
    obtain ⟨n, hn⟩ := List.mem_iff_getElem?.mp hx
    obtain ⟨p, rfl⟩ := Option.isSome_iff_exists.mp hs
    exact ⟨n, p, slotPayload_eq_some.mp (by rw [slotPayload, hn]; rfl)⟩
  · rintro ⟨n, p, hn, hp⟩
    refine ⟨some p, List.mem_iff_getElem?.mpr ⟨n, ?_⟩, rfl⟩
    rw [List.getElem?_take, if_pos hn, hp]

/-- Every payload of a well-formed feed has K bytes (41_poll_bridge.md R143). -/
theorem length_of_feedWf {c : Params} {f : Feed} (h : f.wf c = true) {n : Nat} {p : Payload}
    (hp : f[n]? = some (some p)) : p.length = c.k := by
  simp only [Feed.wf, Bool.and_eq_true, List.all_eq_true] at h
  simpa using h.2 (some p) (List.mem_of_getElem? hp)

/-- No event changes the parameters (10_state.md R37). -/
theorem exec_cfg {i : Instr} (h : exec i s = .next t) : t.cfg = s.cfg := by
  rcases exec_cases h with ⟨-, -, rfl⟩ | ⟨-, -, -, rfl⟩ | ⟨-, -, rfl⟩ | ⟨-, -, rfl⟩ | ⟨-, -, -, rfl⟩ | ⟨-, -, rfl⟩ |
    ⟨-, d, -, rfl⟩ | ⟨-, d, -, -, rfl⟩ | ⟨-, d, -, -, rfl⟩ | ⟨-, d, -, rfl⟩ | ⟨-, -, -, rfl⟩ | ⟨-, -, -, rfl⟩ |
    ⟨-, -, rfl⟩ | ⟨-, -, rfl⟩ | ⟨-, -, rfl⟩ | ⟨-, -, rfl⟩ <;> rfl

/-- No event changes the events that remain. -/
theorem exec_pending {i : Instr} (h : exec i s = .next t) : t.pending = s.pending := by
  rcases exec_cases h with ⟨-, -, rfl⟩ | ⟨-, -, -, rfl⟩ | ⟨-, -, rfl⟩ | ⟨-, -, rfl⟩ | ⟨-, -, -, rfl⟩ | ⟨-, -, rfl⟩ |
    ⟨-, d, -, rfl⟩ | ⟨-, d, -, -, rfl⟩ | ⟨-, d, -, -, rfl⟩ | ⟨-, d, -, rfl⟩ | ⟨-, -, -, rfl⟩ | ⟨-, -, -, rfl⟩ |
    ⟨-, -, rfl⟩ | ⟨-, -, rfl⟩ | ⟨-, -, rfl⟩ | ⟨-, -, rfl⟩ <;> rfl

/-- The channel multiplexer's choice is the feed slot of that number. -/
theorem selectedPayload_eq_some (hc : s.cfg.wf = true) {p : Payload} :
    selectedPayload s = some p ↔ s.feed[s.channel.toNat]? = some (some p) := by
  have hch : s.channel.toNat < 4 := s.channel.isLt
  have hn := dimensions_of_wf hc
  rw [selectedPayload, slotPayload_eq_some]
  exact and_iff_right (by omega)

/-- A byte that a payload has is that byte. -/
theorem payloadByte_of_getElem? {p : Payload} {n : Nat} {v : Byte} (h : p[n]? = some v) : payloadByte p n = v := by
  rw [payloadByte, h]; rfl

/-- A payload of K bytes has every byte of every record (00_scope.md R10). -/
theorem getElem?_record {c : Params} (hc : c.wf = true) {p : Payload} (hp : p.length = c.k) {i j : Nat}
    (hi : i < c.nrows) (hj : j < c.reclen) : p[c.reclen * i + j]? = some (recordByte c p i j) := by
  obtain ⟨hk, -⟩ := dimensions_of_wf hc
  have h : c.reclen * (i + 1) ≤ c.reclen * c.nrows := Nat.mul_le_mul_left _ hi
  have hlt : c.reclen * i + j < p.length := by
    rw [Nat.mul_comm] at hk
    rw [Nat.mul_add] at h
    omega
  rw [recordByte, payloadByte, List.getElem?_eq_getElem hlt]
  rfl

/-- A POLL keeps the RowBuffer's canonical form. -/
theorem wf_mergedRb (hc : s.cfg.wf = true) (h : s.rb.wf s.cfg = true) : (mergedRb s).wf s.cfg = true := by
  rcases mergedRb_cases s with ⟨p, -, -, e⟩ | ⟨-, e⟩
  · rw [e]; exact wf_mergePayload hc p h
  · rw [e]; exact h

/-- A Data write with the cursor in its range keeps the RowBuffer's canonical form. -/
theorem wf_storeAtCursor (hr : s.rowPtr < s.cfg.nrows) (hcol : s.colPtr < s.cfg.ncols) (h : s.rb.wf s.cfg = true)
    (d : Byte) : (s.storeAtCursor d).rb.wf s.cfg = true :=
  Memory.wf_write h (rbAddr_lt hr hcol) d

end Sys2Proof.Machine
end

