-- ==== Sys2Proof/Laws/PerInstr.lean ====
section
/-! SUPPORT. A family stated per event: the encoder's word, built from the word formats (30_encoding.md R82 to R85), fits
the event's own row of the opcode map (R88). -/

namespace Sys2Proof.Laws.EncodesIntoItsRow

/-- The number of the event's row in the opcode map (30_encoding.md R88). -/
def rowOf : Instr → Nat
  | .rdStatus => 0
  | .rdRow => 1
  | .rdData => 2
  | .rdClear => 3
  | .wrStatus _ => 4
  | .wrRow _ => 5
  | .wrData _ => 6
  | .wrClear _ => 7
  | .poll => 8
  | .reset => 9
  | .enable => 10
  | .disable => 11

/-- The event's word fits its own row, and no earlier one. -/
def Statement (i : Instr) : Prop :=
  i.wf = true ∧ opcodeMap.findIdx (·.fits (encode i)) = rowOf i

theorem rdStatus : Statement .rdStatus := by unfold Statement; decide
theorem rdRow : Statement .rdRow := by unfold Statement; decide
theorem rdData : Statement .rdData := by unfold Statement; decide
theorem rdClear : Statement .rdClear := by unfold Statement; decide
theorem wrStatus (d : Byte) : Statement (.wrStatus d) := by unfold Statement; revert d; decide +kernel
theorem wrRow (d : Byte) : Statement (.wrRow d) := by unfold Statement; revert d; decide +kernel
theorem wrData (d : Byte) : Statement (.wrData d) := by unfold Statement; revert d; decide +kernel
theorem wrClear (d : Byte) : Statement (.wrClear d) := by unfold Statement; revert d; decide +kernel
theorem poll : Statement .poll := by unfold Statement; decide
theorem reset : Statement .reset := by unfold Statement; decide
theorem enable : Statement .enable := by unfold Statement; decide
theorem disable : Statement .disable := by unfold Statement; decide

end Sys2Proof.Laws.EncodesIntoItsRow
end

