-- ==== Sys2Proof/Laws/Step.lean ====
section
/-! SUPPORT. What a step can do, and how the folds unfold. -/

namespace Sys2Proof.Machine

variable {s t : State}

/-- Everything a step can answer as a next state: the block waits, or one decoded event runs. -/
theorem step_next (h : step s = .next t) :
    (s.pending = [] ∧ t = s) ∨
      ∃ e rest i, s.pending = e :: rest ∧ decode e.word = .ok i ∧
        exec i ((s.withPending rest).takeInputs e) = .next t := by
  unfold step at h
  split at h
  · next hp => cases h; exact .inl ⟨hp, rfl⟩
  · next e rest hp =>
    unfold stepEvent at h
    split at h
    · next i hi => exact .inr ⟨e, rest, i, hp, hi, h⟩
    · cases h

theorem stepEvent_ok {e : Event} {i : Instr} (h : decode e.word = .ok i) : stepEvent e s = exec i (s.takeInputs e) := by
  simp [stepEvent, h]

theorem runEvents_nil : runEvents [] s = .next s := rfl

theorem runEvents_cons_next {e : Event} {es : List Event} (h : stepEvent e s = .next t) :
    runEvents (e :: es) s = runEvents es t := by
  simp [runEvents, h]

theorem runInstrs_nil : runInstrs [] s = .next s := rfl

theorem runInstrs_cons_next {i : Instr} {is : List Instr} (h : exec i s = .next t) :
    runInstrs (i :: is) s = runInstrs is t := by
  simp [runInstrs, h]

/-- A run of instructions that goes through is a run of its first part and then of the rest. -/
theorem runInstrs_append {is js : List Instr} (h : runInstrs is s = .next t) :
    runInstrs (is ++ js) s = runInstrs js t := by
  induction is generalizing s with
  | nil => cases h; rfl
  | cons i is ih =>
    simp only [List.cons_append, runInstrs] at h ⊢
    split at h
    · next s' hs => exact ih h
    · cases h
    · cases h

end Sys2Proof.Machine
end

