-- ==== Sys2Proof/Tests/Slice0.lean ====
section
/-! SUPPORT. Tests. Expected results come from the spec's encodings (30_encoding.md R82 to R88) and its vectors
(95_test_vectors.md, named at each test). Then one witness for each statement with hypotheses. -/

namespace Sys2Proof.Tests

open Sys2Proof Sys2Proof.Machine

/-! ### Decoding: words written out bit by bit -/

theorem test_decode_rdStatus : decode 0b000000000000#12 = .ok .rdStatus := by decide
theorem test_decode_rdRow : decode 0b000100000000#12 = .ok .rdRow := by decide
theorem test_decode_rdData : decode 0b001000000000#12 = .ok .rdData := by decide
theorem test_decode_rdClear : decode 0b001100000000#12 = .ok .rdClear := by decide
theorem test_decode_wrStatus : decode 0b010000001100#12 = .ok (.wrStatus 0x0C#8) := by decide
theorem test_decode_wrRow : decode 0b010100010011#12 = .ok (.wrRow 0x13#8) := by decide
theorem test_decode_wrData : decode 0b011011111111#12 = .ok (.wrData 0xFF#8) := by decide
theorem test_decode_wrClear : decode 0b011101011010#12 = .ok (.wrClear 0x5A#8) := by decide
theorem test_decode_poll : decode 0b100000000000#12 = .ok .poll := by decide
theorem test_decode_reset : decode 0b110000000000#12 = .ok .reset := by decide
theorem test_decode_enable : decode 0b110100000000#12 = .ok .enable := by decide
theorem test_decode_disable : decode 0b111000000000#12 = .ok .disable := by decide
theorem test_decode_reserved : decode 0b001000000001#12 = .error .reservedEventWord := by decide
theorem test_decodeTableWord : decodeTableWord 16 0x40C = some (.wrStatus 0x0C#8) := by decide
theorem test_decodeTableWord_no_event_word : decodeTableWord 16 0x1000 = none := by decide
theorem test_encode_wrRow : encode (.wrRow 0x13#8) = 0x513#12 := by decide
theorem test_port_offsets : portOfOffset Port.clear.offset = .clear ∧ portOfOffset 2#2 = .data := by decide

/-! ### Well-formedness: one ill-formed term for each check -/

theorem test_wf_standard : Config.standard.wf = true := by decide
theorem test_wf_instr : (Instr.wrClear 0xFF#8).wf = true := by decide
/-- A field past the byte. -/
theorem test_wf_layout_range : StatusLayout.wf ⟨0, 2, 3, 4, 8⟩ = false := by decide
/-- The channel's upper bit past the byte. -/
theorem test_wf_layout_channel_range : StatusLayout.wf ⟨7, 2, 3, 4, 5⟩ = false := by decide
/-- Two fields on one bit. -/
theorem test_wf_layout_overlap : StatusLayout.wf ⟨0, 1, 3, 4, 5⟩ = false := by decide
/-- STATUS_RESET whose low nibble is not LINKS. -/
theorem test_wf_params_links : ({ Config.standard with links := 0xE#4 } : Params).wf = false := by decide
/-- STATUS_RESET with a sticky flag set. -/
theorem test_wf_params_reset : ({ Config.standard with statusReset := 0x8F#8 } : Params).wf = false := by decide
/-- STICKY_MASK other than bits 7, 6 and 4. -/
theorem test_wf_params_sticky : ({ Config.standard with stickyMask := 0xF0#8 } : Params).wf = false := by decide
/-- Parameters with an unusable layout. -/
theorem test_wf_params_layout : ({ Config.standard with layout := ⟨0, 1, 3, 4, 5⟩ } : Params).wf = false := by decide
/-- The parameters of a RowBuffer of 2 rows of 4 bytes, with records of 3 bytes. -/
def small : Params := { Config.standard with nrows := 2, ncols := 4, reclen := 3, k := 6, rowBits := 1, colBits := 2 }

theorem test_wf_params_small : small.wf = true := by decide
/-- K other than NROWS·RECLEN. -/
theorem test_wf_params_k : ({ small with k := 7 } : Params).wf = false := by decide
/-- Records without a first byte. -/
theorem test_wf_params_reclen : ({ small with reclen := 0, k := 0 } : Params).wf = false := by decide
/-- A record that does not fit its row. -/
theorem test_wf_params_ncols : ({ small with reclen := 4, k := 8 } : Params).wf = false := by decide
/-- A row pointer that does not name exactly the rows. -/
theorem test_wf_params_rowBits : ({ small with rowBits := 2 } : Params).wf = false := by decide
/-- A column pointer that does not name exactly the columns. -/
theorem test_wf_params_colBits : ({ small with colBits := 3 } : Params).wf = false := by decide
/-- A row number that does not fit the written byte. -/
theorem test_wf_params_row_in_byte : ({ small with nrows := 512, rowBits := 9, k := 1536 } : Params).wf = false := by decide
/-- Widths that the formats do not have, and channels that the channel field does not name exactly. -/
theorem test_wf_params_formats : ({ small with dataBits := 7 } : Params).wf = false ∧
    ({ small with portBits := 3 } : Params).wf = false ∧ ({ small with nchan := 3 } : Params).wf = false := by decide
/-- A feed with a slot missing, and a payload of another length than K. -/
theorem test_wf_feed : Feed.wf small [none, none, none] = false ∧ Feed.wf small [none, some [1#8], none, none] = false ∧
    Feed.wf small [none, none, none, some [1#8, 2#8, 3#8, 4#8, 5#8, 6#8]] = true := by decide
/-- An event whose rb0 is not canonical. -/
theorem test_wf_event : Event.wf small ⟨0xD00#12, Feed.absent small, [(0, 0#8)]⟩ = false := by decide
/-- A memory that is not rising, one that names the unlisted byte, one past the RowBuffer. -/
theorem test_wf_memory : Memory.wf Config.standard [(2, 1#8), (1, 1#8)] = false ∧ Memory.wf Config.standard [(2, 0#8)] = false ∧
    Memory.wf Config.standard [(1024, 1#8)] = false ∧ Memory.wf Config.standard [(0, 1#8), (1023, 1#8)] = true := by decide

/-! ### One step on a small state -/

/-- `E0` of 95_test_vectors.md: right after ENABLE with rb0 all 0x00. -/
def e0 : State := { State.reset with enabled := true }

/-- `e0` with the three data flags standing: status 0xDF. -/
def e0Df : State := { e0 with fsyn := true, dor := true, int := true }

/-- The state after one event, if it goes on. -/
def after (i : Instr) (s : State) : Option State :=
  match exec i s with
  | .next t => some t
  | .fault _ => none
  | .refused _ => none

/-- The refusal of one event, if it is refused. -/
def refusalOf (i : Instr) (s : State) : Option Refusal :=
  match exec i s with
  | .next _ => none
  | .fault _ => none
  | .refused r => some r

/-- A payload whose record i is given and whose other records are all 0x00: `rows{i: …}`. -/
def rowPayload (i : Nat) (r : List Byte) : Payload :=
  List.replicate (42 * i) 0x00#8 ++ r ++ List.replicate (630 - 42 * i) 0x00#8

/-- A feed with one slot delivering. -/
def feedOf (n : Nat) (p : Payload) : Feed := (Feed.absent Config.standard).set n (some p)

/-- L2-S1. -/
theorem test_rdStatus_after_enable : (after .rdStatus e0).map (·.returned) = some (some 0x0F#8) := by decide
/-- L2-S2: 0xDF, and the flags stay. -/
theorem test_rdStatus_no_side_effect :
    (after .rdStatus e0Df).map (fun t => (t.returned, t.int, t.dor, t.fsyn)) =
      some (some 0xDF#8, true, true, true) := by decide
/-- L2-R1. -/
theorem test_rdRow : (after .rdRow { e0 with rowPtr := 5 }).map (fun t => (t.returned, t.rowPtr)) =
    some (some 0x00#8, 5) := by decide
/-- L2-D3: column 63 is returned, and the cursor wraps in its row. -/
theorem test_rdData_wraps :
    (after .rdData { e0 with rowPtr := 6, colPtr := 63, rb := [(384, 0xB2#8), (447, 0xA1#8)] }).map
      (fun t => (t.returned, t.rowPtr, t.colPtr)) = some (some 0xA1#8, 6, 0) := by decide
/-- L2-D2: after the write at (4, 10) the read gives column 11. -/
theorem test_rdData_next_column :
    ((after (.wrData 0x55#8) { e0 with rowPtr := 4, colPtr := 10 }).bind (after .rdData)).map
      (fun t => (t.returned, t.colPtr)) = some (some 0x00#8, 12) := by decide
/-- L2-C1. -/
theorem test_rdClear :
    (after .rdClear { e0Df with intsEn := true, irq := true }).map
      (fun t => (t.returned, statusByte t, t.irq, t.intsEn)) = some (some 0x00#8, 0x0F#8, false, true) := by decide
/-- L2-C3: while disabled nothing is cleared. -/
theorem test_rdClear_disabled :
    (after .rdClear { e0Df with enabled := false }).map (fun t => (t.returned, t.int)) = some (some 0xFF#8, true) := by
  decide
/-- L2-S3: enabling interrupts with INT latched raises the line. -/
theorem test_wrStatus_raises :
    (after (.wrStatus 0x0C#8) e0Df).map (fun t => (t.channel, t.outEn, t.intsEn, t.irq, statusByte t)) =
      some (0#2, true, true, true, 0xDF#8) := by decide
/-- L2-S6 and L2-S7: bits 7:6 ignored; all five fields. -/
theorem test_wrStatus_fields :
    (after (.wrStatus 0xC5#8) e0).map (fun t => (t.channel, t.outEn, t.intsEn, t.afcEn, t.linksB)) =
      some (1#2, true, false, false, false) ∧
    (after (.wrStatus 0x3F#8) e0).map (fun t => (t.channel, t.outEn, t.intsEn, t.afcEn, t.linksB)) =
      some (3#2, true, true, true, true) := by decide
/-- L2-R2, L2-R3. -/
theorem test_wrRow : (after (.wrRow 0x13#8) { e0 with rowPtr := 2, colPtr := 17 }).map (fun t => (t.rowPtr, t.colPtr)) =
    some (3, 0) := by decide
/-- L2-R4: index_policy = refuse. -/
theorem test_wrRow_refuse :
    refusalOf (.wrRow 0x10#8) { e0 with cfg := { Config.standard with indexPolicy := .refuse } } =
      some .indexOutOfRange ∧
    (after (.wrRow 0x0F#8) { e0 with cfg := { Config.standard with indexPolicy := .refuse } }).map (·.rowPtr) =
      some 15 := by decide
/-- L2-D1, L2-D5. -/
theorem test_wrData : (after (.wrData 0x55#8) { e0 with rowPtr := 4, colPtr := 10 }).map (fun t => (t.rb, t.colPtr)) =
    some ([(266, 0x55#8)], 11) := by decide
/-- L2-D4: index_policy = refuse; the step from 63 sets `past_end`, and the next Data access is refused. -/
theorem test_wrData_refuse :
    ((after (.wrData 0x11#8) { e0 with colPtr := 63, cfg := { Config.standard with indexPolicy := .refuse } }).bind
      (refusalOf .rdData)) = some .indexOutOfRange := by decide
/-- L2-C2. -/
theorem test_wrClear : (after (.wrClear 0xFF#8) e0Df).map statusByte = some 0x0F#8 := by decide
/-- L1-5: the merge, the stale byte of row 5, and the flags, on `WR STATUS 0x04`'s state. -/
theorem test_poll_merges :
    (after .poll { e0 with
      outEn := true
      rb := [(320, 0x99#8)]
      feed := feedOf 0 (rowPayload 3 ((List.range 42).map fun j => BitVec.ofNat 8 (0x41 + j))) }).map
      (fun t => ([t.rb.read 192, t.rb.read 193, t.rb.read 234, t.rb.read 235, t.rb.read 320, statusByte t], t.irq)) =
      some ([0x27#8, 0x41#8, 0x6A#8, 0x00#8, 0x99#8, 0xDF#8], false) := by decide +kernel
/-- L2-P2 and L1-6: the line without INT; a payload on an unselected channel. -/
theorem test_poll_line_and_isolation :
    (after .poll { e0 with intsEn := true }).map (fun t => (t.irq, t.int)) = some (true, false) ∧
    (after .poll { e0 with
      outEn := true, channel := 1#2, feed := feedOf 0 (rowPayload 0 (List.replicate 42 0x31#8)) }).map
      (fun t => (t.rb, statusByte t)) = some ([], 0xDF#8) := by decide +kernel
/-- L2-L4. -/
theorem test_reset :
    (after .reset { e0Df with intsEn := true, irq := true, rowPtr := 4, colPtr := 9, rb := [(265, 0x33#8)] }).map
      (fun t => (statusByte t, [t.intsEn, t.irq], t.cursorAddr, t.rb)) =
      some (0x0F#8, [false, false], 0, [(265, 0x33#8)]) := by decide
/-- L2-L1. -/
theorem test_enable :
    (after .enable { e0Df with enabled := false, irq := true, rb0 := [(0, 0xEE#8)] }).map
      (fun t => (t.enabled, statusByte t, t.irq, t.rb)) = some (true, 0x0F#8, false, [(0, 0xEE#8)]) := by decide
/-- L2-L2: ENABLE while enabled. -/
theorem test_enable_twice : (after .enable { e0Df with rb0 := [(0, 0xEE#8)] }).map (fun t => (statusByte t, t.rb)) =
    some (0xDF#8, []) := by decide
/-- L2-L3. -/
theorem test_disable : (after .disable { e0Df with irq := true }).map (fun t => (t.enabled, t.irq)) =
    some (false, true) := by decide

/-- Program A, events 1 and 2: a table word placed after reset runs as the next step. -/
theorem test_step_enable :
    (match step (State.reset.withFetchWord 16 0xD00) with
      | .next t => t.enabled && decide (t.pending = [])
      | .fault _ => false
      | .refused _ => false) = true := by decide

/-- R33, R34, R145 on other dimensions: the row modulo 2, the column wraps after 3, and a record of 3 bytes merges. -/
theorem test_dimensions_are_live :
    ((after (.wrRow 5#8) { e0 with cfg := small }).map (·.rowPtr)) = some 1 ∧
    (after (.wrData 9#8) { e0 with cfg := small, rowPtr := 1, colPtr := 3 }).map (fun t => (t.rb, t.colPtr)) =
      some ([(7, 9#8)], 0) ∧
    (after .poll { e0 with
      cfg := small, outEn := true, feed := [some [0#8, 1#8, 1#8, 4#8, 5#8, 6#8], none, none, none] }).map (·.rb) =
      some [(4, 0x27#8), (5, 4#8), (6, 5#8), (7, 6#8)] := by decide

/-- R62: "`value & 0xFF`". -/
theorem test_busByte : busByte Config.standard 0x1A5 = 0xA5#8 := by decide

/-- R87's examples. -/
theorem test_statusWr : statusWr Config.standardLayout 0#2 true true false false = 0x0C#8 ∧
    statusWr Config.standardLayout 1#2 true true false false = 0x0D#8 ∧
    statusWr Config.standardLayout 0#2 true false false false = 0x04#8 ∧
    statusWr Config.standardLayout 0#2 false true false false = 0x08#8 ∧
    statusWr Config.standardLayout 3#2 true true true true = 0x3F#8 := by decide

/-- R92's SELECT and IDLE. -/
theorem test_pseudo : (pseudoEvents Config.standard (.select 1#2 true false)).map (·.word) = [0x405#12] ∧
    (pseudoEvents Config.standard .idle).map (·.word) = [0x800#12] ∧
    (pseudoEvents Config.standard (.readRow 2#8 2)).map (·.word) = [0x502#12, 0x200#12, 0x200#12] := by decide

/-! ### Witnesses: a concrete state and operands that meet each statement's hypotheses -/

/-- A payload of record 3, first byte 0x41. -/
def hello : Payload := rowPayload 3 (List.replicate 42 0x41#8)

/-- An enabled state whose selected slot delivers `hello`, output enabled. -/
def delivering : State := { e0 with outEn := true, feed := feedOf 0 hello }

/-- The parameters with index_policy = refuse. -/
def refusing : Params := { Config.standard with indexPolicy := .refuse }

/-- An event with nothing beside its word. -/
def plainEvent (w : EventWord) : Event := ⟨w, Feed.absent Config.standard, []⟩

theorem witness_DecodeOfEncodeIsTheEvent : (Instr.wrData 0xFF#8).wf = true := by decide
theorem witness_EncodeOfDecodeIsTheWord : decode 0x7FF#12 = .ok (.wrClear 0xFF#8) := by decide
theorem witness_OpcodeRowsAreDisjoint : ∃ r ∈ opcodeMap, r.fits 0x40C#12 = true :=
  ⟨⟨0x400#12, 0xF00#12, .wrStatus⟩, by simp [opcodeMap], by decide⟩
theorem witness_StatusWriteByteCarriesItsFields :
    Config.standardLayout.wf = true ∧ StatusLayout.wf ⟨6, 0, 1, 2, 5⟩ = true := by decide
theorem witness_HostAccessReachesItsPort : Config.standard.wf = true ∧ (Config.BASE + 4 ≤ Config.BASE + 4) :=
  ⟨by decide, Nat.le_refl _⟩
theorem witness_StepRunsTheDecodedEvent : ∃ s : State, s.pending = [plainEvent 0x502#12] ∧
    decode (plainEvent 0x502#12).word = .ok (.wrRow 2#8) :=
  ⟨{ e0 with pending := [plainEvent 0x502#12] }, rfl, by decide⟩
theorem witness_StepRefusesReservedWords : ∃ s : State, s.pending = [plainEvent 0xF00#12] ∧
    decode (plainEvent 0xF00#12).word = .error .reservedEventWord :=
  ⟨{ e0 with pending := [plainEvent 0xF00#12] }, rfl, by decide⟩
theorem witness_StepWaitsWithoutEvents : State.reset.pending = [] := rfl
theorem witness_RunIsTheFoldOfItsEvents : ∃ s : State,
    s.pending = [plainEvent 0xD00#12, plainEvent 0x000#12] ++ [plainEvent 0xFFF#12] :=
  ⟨{ State.reset with pending := [plainEvent 0xD00#12, plainEvent 0x000#12, plainEvent 0xFFF#12] }, rfl⟩
theorem witness_NoStepChangesTheParameters : ∃ t, step (State.reset.withFetchWord 16 0xD00) = .next t := ⟨_, rfl⟩
/-- Clause by clause: a read and a write. -/
theorem witness_DisabledBusEventsAreInert : State.reset.enabled = false ∧ Instr.rdClear.isRead = true := by decide
theorem witness_OnlyEnableWakesTheBlock : ∃ s : State, s.enabled = false ∧ s.pending = [plainEvent 0xC00#12] ∧
    decode (plainEvent 0xC00#12).word = .ok .reset ∧ Instr.reset ≠ .enable :=
  ⟨{ State.reset with pending := [plainEvent 0xC00#12] }, rfl, rfl, by decide, by decide⟩
/-- Clause by clause: enabled; the flags standing; default parameters; disabled; the last slot delivering; the invariant. -/
theorem witness_StatusReadReturnsTheLatch : e0Df.enabled = true ∧ e0Df.cfg = Config.standard ∧
    (e0Df.fsyn = true ∧ e0Df.dor = true ∧ e0Df.int = true ∧ e0Df.dew = false) ∧
    (State.reset.enabled = false ∧ State.reset.cfg = Config.standard) ∧
    ({ e0 with feed := feedOf 3 hello } : State).feed[3]? = some (some hello) ∧ e0.Inv := by
  refine ⟨rfl, rfl, ⟨rfl, rfl, rfl, rfl⟩, ⟨rfl, rfl⟩, rfl, ?_⟩
  constructor <;> decide
theorem witness_StatusWriteLoadsItsFields : e0.enabled = true ∧ e0.cfg.layout = Config.standardLayout := by decide
theorem witness_StatusWriteOfAssembledByte : e0.enabled = true ∧ e0.cfg.layout.wf = true := by decide
/-- Clause by clause: a Status write; a Clear access and RESET; ENABLE while disabled; POLL with ints_en. -/
theorem witness_StatusWriteRecomputesTheLine : e0.enabled = true ∧ (Instr.wrClear 0#8).isClearAccess = true ∧
    State.reset.enabled = false ∧ ({ e0 with intsEn := true } : State).cfg.pollIrqMode = .unconditional ∧
    ({ e0 with intsEn := true } : State).intsEn = true := by decide
theorem witness_RowReadReturnsZero : e0.enabled = true := rfl
theorem witness_RowWriteSelectsTheRow :
    e0.enabled = true ∧ e0.cfg.wf = true ∧ e0.cfg.indexPolicy = .mask := by decide
/-- Clause by clause, at the boundary: D = 16 and D = 15. -/
theorem witness_RowWriteUnderRefusePolicy : ({ e0 with cfg := refusing } : State).enabled = true ∧ refusing.wf = true ∧
    refusing.indexPolicy = .refuse ∧ refusing.nrows ≤ (16#8).toNat ∧ (15#8).toNat < refusing.nrows := by
  decide
theorem witness_DataReadReturnsTheCursorByte : e0.enabled = true ∧ e0.cfg.wf = true ∧ e0.cfg.indexPolicy = .mask := by decide
theorem witness_DataWriteStoresAtTheCursor :
    e0.enabled = true ∧ e0.cfg.wf = true ∧ e0.cfg.indexPolicy = .mask ∧ e0.rb.wf e0.cfg = true := by decide
/-- Clause by clause: `past_end` set, and not set with the column at 63. -/
theorem witness_DataAccessUnderRefusePolicy : ∃ s u : State,
    (s.enabled = true ∧ s.cfg.wf = true ∧ s.cfg.indexPolicy = .refuse ∧ s.pastEnd = true) ∧
    (u.enabled = true ∧ u.cfg.wf = true ∧ u.cfg.indexPolicy = .refuse ∧ u.pastEnd = false ∧ u.colPtr = 63) :=
  ⟨{ e0 with cfg := refusing, pastEnd := true }, { e0 with cfg := refusing, colPtr := 63 },
    ⟨rfl, by decide, rfl, rfl⟩, rfl, by decide, rfl, rfl, rfl⟩
theorem witness_CursorLaw : e0.enabled = true ∧ e0.cfg.wf = true ∧ e0.cfg.indexPolicy = .mask ∧ e0.rb.wf e0.cfg = true ∧
    ∀ i ∈ [Instr.rdData, .wrData 1#8], i.isDataAccess = true := by decide
/-- A full row, last byte. -/
theorem witness_HostGetsBackWhatItPut : e0.enabled = true ∧ e0.cfg.wf = true ∧ e0.cfg.indexPolicy = .mask ∧
    e0.rb.wf e0.cfg = true ∧ (List.replicate 64 7#8).length ≤ e0.cfg.ncols ∧ 63 < (List.replicate 64 7#8).length := by decide
theorem witness_ClearWriteClearsTheLatch : e0Df.enabled = true ∧ e0Df.cfg.clearMask = 0xD0#8 ∧
    (Instr.wrClear 0#8).isClearAccess = true ∧ Instr.rdClear.isClearAccess = true ∧
    ∃ t u, exec (.wrClear 0#8) e0Df = .next t ∧ exec .rdClear t = .next u :=
  ⟨rfl, rfl, rfl, rfl, _, _, rfl, rfl⟩
theorem witness_ClearReadClearsTheLatch : e0Df.enabled = true ∧ e0Df.cfg.clearMask = 0xD0#8 := by decide
theorem witness_ClearMaskSelectsTheFlags : e0Df.enabled = true ∧ Instr.rdClear.isClearAccess = true := by decide
/-- Clause by clause: the last slot delivering; none delivering; a selected payload of zeros. -/
theorem witness_PollLatchesDataFromAnySlot : e0.enabled = true ∧ e0.cfg.wf = true ∧
    (3 < e0.cfg.nchan ∧ (feedOf 3 hello)[3]? = some (some hello)) ∧
    (∀ (n : Nat) (p : Payload), n < e0.cfg.nchan → e0.feed[n]? ≠ some (some p)) ∧
    (feedOf 0 (List.replicate 672 0x00#8))[e0.channel.toNat]? = some (some (List.replicate 672 0x00#8)) ∧
    ∀ i : Nat, i < e0.cfg.nrows → (List.replicate 672 0x00#8)[e0.cfg.reclen * i]? = some 0x00#8 := by
  refine ⟨rfl, by decide, ⟨by decide, rfl⟩, ?_, rfl, ?_⟩
  · intro n p hn
    have h : e0.feed[n]? = some none := List.getElem?_replicate_of_lt hn
    rw [h]
    nofun
  · intro i hi
    have hi' : i < 16 := hi
    exact List.getElem?_replicate_of_lt (show 42 * i < 672 by omega)
/-- Clause by clause: row 3 refreshed; the last row, whose record's first byte is 0x00, kept. -/
theorem witness_PollMergesRowByRow : delivering.enabled = true ∧ delivering.cfg.wf = true ∧
    delivering.rb.wf delivering.cfg = true ∧ delivering.feed.wf delivering.cfg = true ∧
    (3 < delivering.cfg.nrows ∧ 15 < delivering.cfg.nrows) ∧ delivering.outEn = true ∧
    delivering.feed[delivering.channel.toNat]? = some (some hello) ∧
    hello[delivering.cfg.reclen * 3]? ≠ some 0x00#8 ∧ hello[delivering.cfg.reclen * 15]? = some 0x00#8 ∧
    e0.outEn = false := by
  refine ⟨rfl, by decide, rfl, ?_, by decide, rfl, rfl, ?_, ?_, rfl⟩ <;> decide +kernel
theorem witness_PollAssertsTheLineWhenEnabled : e0.enabled = true ∧ e0.cfg.pollIrqMode = .unconditional := by decide
theorem witness_PollRecomputesUnderTheSwitch : ∃ s : State, s.enabled = true ∧ s.cfg.pollIrqMode = .recompute :=
  ⟨{ e0 with cfg := { Config.standard with pollIrqMode := .recompute } }, rfl, rfl⟩
/-- Clause by clause: the first address past the RowBuffer; the last column of the last row. -/
theorem witness_PollChangesNothingElse : e0.enabled = true ∧ e0.cfg.wf = true ∧ e0.cfg.nrows * e0.cfg.ncols ≤ 1024 ∧
    e0.cfg.reclen < 1023 % e0.cfg.ncols := by decide
/-- The other slots may differ: slot 3 delivers in one POLL only. -/
theorem witness_UnselectedChannelsDoNotReachTheBuffer :
    (feedOf 3 hello)[e0.channel.toNat]? = e0.feed[e0.channel.toNat]? ∧
    e0.feed[e0.channel.toNat]? = some none := ⟨rfl, rfl⟩
/-- Clause by clause: n = 0, 42 and 43. -/
theorem witness_DeliveredRowBecomesReadable : delivering.enabled = true ∧ delivering.outEn = true ∧
    delivering.cfg.wf = true ∧ delivering.cfg.indexPolicy = .mask ∧ delivering.rb.wf delivering.cfg = true ∧
    delivering.feed.wf delivering.cfg = true ∧ delivering.feed[delivering.channel.toNat]? = some (some hello) ∧
    3 < delivering.cfg.nrows ∧ hello[delivering.cfg.reclen * 3]? ≠ some 0x00#8 ∧
    0 < delivering.cfg.ncols ∧ 42 ≤ delivering.cfg.reclen ∧ 43 < delivering.cfg.ncols := by
  refine ⟨rfl, rfl, by decide, rfl, rfl, ?_, rfl, by decide, ?_, by decide, by decide, by decide⟩ <;> decide +kernel
theorem witness_EnableLoadsTheResetValues : State.reset.enabled = false ∧ State.reset.cfg.wf = true := by decide
theorem witness_ResetLoadsTheResetValues : e0Df.enabled = true ∧ e0Df.cfg.wf = true := by decide
theorem witness_DisableKeepsEverythingElse : e0Df.enabled = true := rfl
theorem witness_RedundantModeEventsDoNothing : State.reset.enabled = false ∧ e0.enabled = true := by decide
/-- Two disabled states that held different things. -/
theorem witness_NothingHeldSurvivesEnable : ∃ u : State, State.reset.enabled = false ∧ u.enabled = false ∧
    State.reset.cfg = u.cfg ∧ State.reset.rb0 = u.rb0 ∧ State.reset.feed = u.feed ∧
    State.reset.pending = u.pending ∧ State.reset.returned = u.returned ∧ u.irq = true ∧ u.rb ≠ State.reset.rb :=
  ⟨{ e0Df with enabled := false, irq := true, rb := [(1, 1#8)] }, rfl, rfl, rfl, rfl, rfl, rfl, rfl, rfl, by decide⟩
theorem witness_FsynAndDorTransitions : e0.cfg.wf = true ∧ e0.cfg.clearMask = 0xD0#8 ∧
    (∃ t, exec .poll delivering = .next t) ∧ (0 < delivering.cfg.nchan ∧ delivering.feed[0]? = some (some hello)) ∧
    (∃ t, exec .rdClear e0Df = .next t) ∧ (∃ t, exec .reset e0Df = .next t) ∧
    (∃ t, exec .enable State.reset = .next t) ∧ ∃ t, exec .rdStatus e0 = .next t :=
  ⟨by decide, rfl, ⟨_, rfl⟩, ⟨by decide, rfl⟩, ⟨_, rfl⟩, ⟨_, rfl⟩, ⟨_, rfl⟩, _, rfl⟩
/-- Clause by clause: a list of one POLL; a bus event. -/
theorem witness_StickyFlagsAreMonotoneBetweenClears :
    (∀ i, decode (plainEvent 0x800#12).word = .ok i → i.isClearAccess = false ∧ i ≠ .reset ∧ i ≠ .enable) ∧
    (∃ t, runEvents [plainEvent 0x800#12] e0Df = .next t) ∧ (Instr.wrStatus 0x08#8).agent = .host ∧
    (Instr.wrStatus 0x08#8).isClearAccess = false ∧ ∃ t, exec (.wrStatus 0x08#8) e0Df = .next t := by
  refine ⟨?_, ⟨_, rfl⟩, rfl, rfl, _, rfl⟩
  intro i h
  have hd : decode (plainEvent 0x800#12).word = .ok .poll := by decide
  rw [hd] at h
  cases h
  decide
theorem witness_NothingSetsDew : ∃ s t : State, s.cfg.wf = true ∧ exec .rdStatus s = .next t ∧ t.dew = true :=
  ⟨{ e0 with dew := true }, _, by decide, rfl, rfl⟩
theorem witness_DataFlagsStayTogether : e0Df.cfg.wf = true ∧ e0Df.cfg.clearMask = 0xD0#8 ∧
    (∃ t, exec .rdClear e0Df = .next t) ∧ e0Df.fsyn = e0Df.int ∧ e0Df.dor = e0Df.int :=
  ⟨by decide, rfl, ⟨_, rfl⟩, rfl, rfl⟩
theorem witness_OnlyEnableAndDisableChangeTheMode : (∃ t, exec .enable State.reset = .next t) ∧
    State.reset.enabled = false ∧ Instr.rdData.agent = .host ∧ (∃ t, exec .rdData State.reset = .next t) ∧
    (Instr.wrData 1#8).isRead = false ∧ ∃ t, exec (.wrData 1#8) State.reset = .next t :=
  ⟨⟨_, rfl⟩, rfl, rfl, ⟨_, rfl⟩, rfl, _, rfl⟩
theorem witness_ControlStateWriters : (∃ t, exec .poll delivering = .next t) ∧ (∀ d, Instr.poll ≠ .wrStatus d) ∧
    Instr.poll ≠ .reset ∧ Instr.poll ≠ .enable :=
  ⟨⟨_, rfl⟩, nofun, by decide, by decide⟩
theorem witness_CursorWriters : (∃ t, exec .rdStatus e0 = .next t) ∧ (∀ d, Instr.rdStatus ≠ .wrRow d) ∧
    Instr.rdStatus ≠ .reset ∧ Instr.rdStatus ≠ .enable ∧ Instr.rdStatus.isDataAccess = false :=
  ⟨⟨_, rfl⟩, nofun, by decide, by decide, rfl⟩
theorem witness_RowBufferWriters : (∃ t, exec .reset e0 = .next t) ∧ (∀ d, Instr.reset ≠ .wrData d) ∧
    Instr.reset ≠ .poll ∧ Instr.reset ≠ .enable :=
  ⟨⟨_, rfl⟩, nofun, by decide, by decide⟩
theorem witness_OnlyReadsReturnAByte : (∃ t, exec .rdRow e0 = .next t) ∧ Instr.rdRow.isRead = true ∧
    (∃ t, exec .poll e0 = .next t) ∧ Instr.poll.isRead = false :=
  ⟨⟨_, rfl⟩, rfl, ⟨_, rfl⟩, rfl⟩
theorem witness_EventsAndTheLine : e0.cfg.pollIrqMode = .unconditional ∧
    e0.cfg.layout = Config.standardLayout ∧ (∃ t, exec .poll e0 = .next t) ∧ e0.enabled = true ∧
    State.reset.enabled = false ∧ ∃ t, exec .enable State.reset = .next t :=
  ⟨rfl, rfl, ⟨_, rfl⟩, rfl, rfl, _, rfl⟩
theorem witness_IdempotentEvents : Instr.reset ≠ .poll ∧ Instr.reset.isDataAccess = false ∧
    ∃ t u, exec .reset e0Df = .next t ∧ exec .reset t = .next u :=
  ⟨by decide, rfl, _, _, rfl, rfl⟩
/-- A reachable state with the line asserted: ENABLE; WR STATUS, 0x08; POLL with no payload. -/
theorem witness_LineImpliesInterruptsEnabled : ∃ s : State, s.Reachable ∧ s.irq = true :=
  ⟨_, ⟨State.reset, [plainEvent 0xD00#12, plainEvent 0x408#12, plainEvent 0x800#12], ⟨rfl, rfl⟩, rfl⟩, rfl⟩
theorem witness_LineWithoutIntIsReachable : State.reset.PowerOn ∧ State.reset.cfg = Config.standard :=
  ⟨⟨rfl, rfl⟩, rfl⟩
theorem witness_StepKeepsTheInvariant : ∃ s t : State, s.Inv ∧ step s = .next t ∧ t.enabled = true := by
  refine ⟨State.reset.withFetchWord 16 0xD00, _, ?_, rfl, rfl⟩
  constructor <;> decide
theorem witness_StepsGoOnUnlessReserved : ∃ s : State, s.cfg.indexPolicy = .mask ∧ s.pending ≠ [] ∧
    ∀ e ∈ s.pending, e.Legal := by
  refine ⟨{ e0 with pending := [plainEvent 0x200#12] }, rfl, by simp, ?_⟩
  intro e he
  rcases List.mem_singleton.mp he with rfl
  exact ⟨.rdData, by decide⟩
theorem witness_CanonicalMemoriesThatReadAlikeAreEqual : ∃ (c : Params) (m m' : Memory),
    m.wf c = true ∧ m'.wf c = true ∧ m ≠ [] ∧
    ∀ a : Nat, m.read a = m'.read a :=
  ⟨Config.standard, [(5, 1#8)], [(5, 1#8)], by decide, by decide, by decide, fun _ => rfl⟩

end Sys2Proof.Tests
end

section
/-! The scope statements (00_scope.md): the default parameters (R9, R10) and the byte a bus read returns (R13). -/

namespace Sys2Proof.Machine

variable {i : Instr} {s t : State}

/-- A bus read answers with a byte, the SENTINEL while disabled (40_register_access.md R100). -/
theorem exec_read_answers (hi : i.isRead = true) (h : exec i s = .next t) : ∃ u v, t = State.answer u v := by
  cases i with
  | rdStatus => rcases execRdStatus_next h with ⟨-, ht⟩ | ⟨-, ht⟩ <;> exact ⟨_, _, ht⟩
  | rdRow => rcases execRdRow_next h with ⟨-, ht⟩ | ⟨-, ht⟩ <;> exact ⟨_, _, ht⟩
  | rdData => rcases execRdData_next h with ⟨-, -, ht⟩ | ⟨-, ht⟩ <;> exact ⟨_, _, ht⟩
  | rdClear => rcases execRdClear_next h with ⟨-, ht⟩ | ⟨-, ht⟩ <;> exact ⟨_, _, ht⟩
  | _ => cases hi

@[simp] theorem latchDataReady_returned (s : State) : s.latchDataReady.returned = s.returned := by
  rcases latchDataReady_cases s with ⟨-, e⟩ | ⟨-, e⟩ <;> rw [e]
  rfl

theorem exec_returned_of_not_read (hi : i.isRead = false) (h : exec i s = .next t) : t.returned = s.returned := by
  cases i with
  | wrStatus d => rcases execWrStatus_next h with ⟨-, rfl⟩ | ⟨-, rfl⟩ <;> rfl
  | wrRow d => rcases execWrRow_next h with ⟨-, -, rfl⟩ | ⟨-, rfl⟩ <;> rfl
  | wrData d => rcases execWrData_next h with ⟨-, -, rfl⟩ | ⟨-, rfl⟩ <;> rfl
  | wrClear d => rcases execWrClear_next d h with ⟨-, rfl⟩ | ⟨-, rfl⟩ <;> rfl
  | poll =>
    rcases execPoll_next h with ⟨-, rfl⟩ | ⟨-, rfl⟩
    · exact latchDataReady_returned s
    · rfl
  | reset => rcases execReset_next h with ⟨-, rfl⟩ | ⟨-, rfl⟩ <;> rfl
  | enable => rcases execEnable_next h with ⟨-, rfl⟩ | ⟨-, rfl⟩ <;> rfl
  | disable => rcases execDisable_next h with ⟨-, rfl⟩ | ⟨-, rfl⟩ <;> rfl
  | _ => cases hi

/-- Settles O51: a read's next state is an answer, and no other event touches the record. -/
theorem onlyReadsReturnAByte : Obligations.OnlyReadsReturnAByte := by
  intro i s t h
  refine ⟨fun hi => ?_, fun hi => exec_returned_of_not_read hi h⟩
  obtain ⟨u, v, rfl⟩ := exec_read_answers hi h
  exact ⟨v, State.answer_returned u v⟩

/-- STICKY_MASK selects exactly bits 7, 6 and 4 by default (00_scope.md R10). -/
theorem standard_stickyMask_bits (n : Fin 8) : Config.standard.stickyMask[n] = true ↔ n = 7 ∨ n = 6 ∨ n = 4 := by
  revert n
  decide

/-- The default parameters are usable (00_scope.md R10). -/
theorem standard_wf : Config.standard.wf = true := by decide

/-- Settles O12: every value by computation, R10's equalities one by one. -/
theorem defaultParametersAgree : Obligations.DefaultParametersAgree := by
  refine ⟨?values, ?equalities, rfl, rfl⟩
  case values => decide
  case equalities =>
    obtain ⟨hk, -, hrecord, -⟩ := dimensions_of_wf standard_wf
    exact ⟨hk, hrecord, rfl, standard_stickyMask_bits, standard_wf⟩

end Sys2Proof.Machine
end

section
/-! Everything an event can do, as an inductive relation: `exec_cases` with a name for each case. The proofs over all
events go by cases on it. -/

namespace Sys2Proof.Machine

/-- The next states an event can answer, one constructor for each way a meaning can run (40_register_access.md R100 to
R109; 41_poll_bridge.md R140; 42_lifecycle.md R170 to R172). -/
inductive Effect (s : State) : Instr → State → Prop
  | sentinel {i : Instr} (he : s.enabled = false) (hi : i.isRead = true) : Effect s i (s.answer s.cfg.sentinel)
  | inert {i : Instr} (he : s.enabled = false) (hi : i.isRead = false) (hne : i ≠ .enable) : Effect s i s
  | rdStatus (he : s.enabled = true) : Effect s .rdStatus (s.answer (statusByte s))
  | rdRow (he : s.enabled = true) : Effect s .rdRow (s.answer 0x00#8)
  | rdData (he : s.enabled = true) (hr : s.refusesData = false) :
      Effect s .rdData (s.advanceCol.answer (s.rb.read s.cursorAddr))
  | rdClear (he : s.enabled = true) : Effect s .rdClear (s.clearAccess.answer 0x00#8)
  | wrStatus (d : Byte) (he : s.enabled = true) : Effect s (.wrStatus d) (s.loadControl d).recomputeIrq
  | wrRow (d : Byte) (he : s.enabled = true) (hr : s.refusesRow d = false) :
      Effect s (.wrRow d) (s.seekRow (rowField s.cfg d))
  | wrData (d : Byte) (he : s.enabled = true) (hr : s.refusesData = false) :
      Effect s (.wrData d) (s.storeAtCursor d).advanceCol
  | wrClear (d : Byte) (he : s.enabled = true) : Effect s (.wrClear d) s.clearAccess
  | pollData (he : s.enabled = true) (hp : anyPayload s.cfg s.feed = true) :
      Effect s .poll { s.setFlags s.cfg.stickyMask with
        rb := mergedRb s, irq := pollIrq (s.setFlags s.cfg.stickyMask) }
  | pollQuiet (he : s.enabled = true) (hp : anyPayload s.cfg s.feed = false) :
      Effect s .poll { s with rb := mergedRb s, irq := pollIrq s }
  | reset (he : s.enabled = true) : Effect s .reset s.loadResetValues
  | enableAgain (he : s.enabled = true) : Effect s .enable s
  | enable (he : s.enabled = false) : Effect s .enable { s.loadResetValues with enabled := true, rb := s.rb0 }
  | disable (he : s.enabled = true) : Effect s .disable { s with enabled := false }

/-- An event that answers a next state has one of the effects. -/
theorem exec_effect {i : Instr} {s t : State} (h : exec i s = .next t) : Effect s i t := by
  rcases exec_cases h with ⟨he, hi, rfl⟩ | ⟨he, hi, hne, rfl⟩ | ⟨he, rfl, rfl⟩ | ⟨he, rfl, rfl⟩ | ⟨he, rfl, hr, rfl⟩ |
    ⟨he, rfl, rfl⟩ | ⟨he, d, rfl, rfl⟩ | ⟨he, d, rfl, hr, rfl⟩ | ⟨he, d, rfl, hr, rfl⟩ | ⟨he, d, rfl, rfl⟩ |
    ⟨he, rfl, hp, rfl⟩ | ⟨he, rfl, hp, rfl⟩ | ⟨he, rfl, rfl⟩ | ⟨he, rfl, rfl⟩ | ⟨he, rfl, rfl⟩ | ⟨he, rfl, rfl⟩
  · exact .sentinel he hi
  · exact .inert he hi hne
  · exact .rdStatus he
  · exact .rdRow he
  · exact .rdData he hr
  · exact .rdClear he
  · exact .wrStatus d he
  · exact .wrRow d he hr
  · exact .wrData d he hr
  · exact .wrClear d he
  · exact .pollData he hp
  · exact .pollQuiet he hp
  · exact .reset he
  · exact .enableAgain he
  · exact .enable he
  · exact .disable he

end Sys2Proof.Machine
end

section
/-! The invariant: it holds after reset, each operation keeps it, and so does every step (10_state.md R25, R33, R34;
60_exceptions.md R196). -/

namespace Sys2Proof.Machine

/-- Settles O56: the cursor at home, nothing listed, no event pending, the block off. -/
theorem resetSatisfiesTheInvariant : Obligations.ResetSatisfiesTheInvariant where
  cfgWf := standard_wf
  rowInRange := by decide
  colInRange := by decide
  rbWf := rfl
  rb0Wf := rfl
  feedWf := by decide
  pendingWf := by simp [State.reset]
  irqNeedsIntsEn := nofun
  dewStaysClear := nofun
  pastEndNeedsRefuse := fun _ => rfl

namespace State.Inv

variable {s : State}

theorem answer (h : s.Inv) (v : Byte) : (s.answer v).Inv := { h with }

theorem clearAccess (h : s.Inv) : s.clearAccess.Inv :=
  { h with
    irqNeedsIntsEn := nofun
    dewStaysClear := fun he => by simp [h.dewStaysClear he] }

theorem loadControl_recomputeIrq (h : s.Inv) (d : Byte) : (s.loadControl d).recomputeIrq.Inv :=
  { h with
    irqNeedsIntsEn := by simp +contextual }

theorem seekRow (h : s.Inv) {r : Nat} (hr : r < s.cfg.nrows) : (s.seekRow r).Inv :=
  { h with
    rowInRange := hr
    colInRange := Nat.zero_lt_of_lt h.colInRange
    pastEndNeedsRefuse := fun _ => rfl }

theorem storeAtCursor (h : s.Inv) (d : Byte) : (s.storeAtCursor d).Inv :=
  { h with rbWf := wf_storeAtCursor h.rowInRange h.colInRange h.rbWf d }

theorem advanceCol (h : s.Inv) : s.advanceCol.Inv :=
  { h with
    colInRange := nextCol_lt h.cfgWf _
    pastEndNeedsRefuse := fun hm => by simp [h.pastEndNeedsRefuse hm, (show s.cfg.indexPolicy = .mask from hm)] }

/-- STICKY_MASK has no bit for DEW (10_state.md R25). -/
theorem setFlags_stickyMask (h : s.Inv) : (s.setFlags s.cfg.stickyMask).Inv :=
  { h with
    dewStaysClear := fun he => by simp [h.dewStaysClear he, stickyMask_of_wf h.cfgWf] }

theorem loadResetValues (h : s.Inv) : s.loadResetValues.Inv :=
  { h with
    rowInRange := Nat.zero_lt_of_lt h.rowInRange
    colInRange := Nat.zero_lt_of_lt h.colInRange
    irqNeedsIntsEn := nofun
    dewStaysClear := fun _ => statusReset_flag_of_wf h.cfgWf (by decide) (by decide)
    pastEndNeedsRefuse := fun _ => rfl }

/-- ENABLE takes its RowBuffer from rb0 and puts DEW to its reset value. -/
theorem enable (h : s.Inv) : ({ s.loadResetValues with enabled := true, rb := s.rb0 } : State).Inv :=
  { h.loadResetValues with
    rbWf := h.rb0Wf
    dewStaysClear := fun _ => statusReset_flag_of_wf h.cfgWf (by decide) (by decide) }

theorem disable (h : s.Inv) : ({ s with enabled := false } : State).Inv := { h with dewStaysClear := nofun }

/-- The inputs of a pending event are well formed, so taking it keeps the invariant. -/
theorem takePending (h : s.Inv) {e : Event} {rest : List Event} (hp : s.pending = e :: rest) :
    ((s.withPending rest).takeInputs e).Inv := by
  have he : e.wf s.cfg = true := h.pendingWf e (by simp [hp])
  simp only [Event.wf, Bool.and_eq_true] at he
  exact { h with
    rb0Wf := he.2
    feedWf := he.1
    pendingWf := fun e' he' => h.pendingWf e' (by rw [hp]; exact List.mem_cons_of_mem e he') }

end State.Inv

/-- POLL's interrupt step asserts the line only with ints_en, in both modes (41_poll_bridge.md R149; D25). -/
theorem intsEn_of_pollIrq {s : State} (h : s.irq = true → s.intsEn = true) (hp : pollIrq s = true) :
    s.intsEn = true := by
  unfold pollIrq at hp
  split at hp
  · rcases Bool.or_eq_true_iff.mp hp with hi | hi
    · exact h hi
    · exact hi
  · exact (Bool.and_eq_true_iff.mp hp).1

/-- The merge and the interrupt step of a POLL keep the invariant. -/
theorem State.Inv.merge {u : State} (h : u.Inv) {m : Memory} (hm : m.wf u.cfg = true) :
    ({ u with rb := m, irq := pollIrq u } : State).Inv :=
  { h with
    rbWf := hm
    irqNeedsIntsEn := intsEn_of_pollIrq h.irqNeedsIntsEn }

/-- Every event keeps the invariant. -/
theorem exec_keeps_inv {i : Instr} {s t : State} (h : s.Inv) (ht : exec i s = .next t) : t.Inv := by
  cases exec_effect ht with
  | sentinel => exact h.answer _
  | inert => exact h
  | rdStatus => exact h.answer _
  | rdRow => exact h.answer _
  | rdData => exact h.advanceCol.answer _
  | rdClear => exact h.clearAccess.answer _
  | wrStatus d => exact h.loadControl_recomputeIrq d
  | wrRow d => exact h.seekRow (rowField_lt h.cfgWf d)
  | wrData d => exact (h.storeAtCursor d).advanceCol
  | wrClear => exact h.clearAccess
  | pollData => exact h.setFlags_stickyMask.merge (wf_mergedRb h.cfgWf h.rbWf)
  | pollQuiet => exact h.merge (wf_mergedRb h.cfgWf h.rbWf)
  | reset => exact h.loadResetValues
  | enableAgain => exact h
  | enable => exact h.enable
  | disable => exact h.disable

/-- Settles O57: taking the event keeps the invariant, and so does what the event does. -/
theorem stepKeepsTheInvariant : Obligations.StepKeepsTheInvariant := by
  intro s t h hst
  rcases step_next hst with ⟨-, rfl⟩ | ⟨e, rest, i, hp, -, hi⟩
  · exact h
  · exact exec_keeps_inv (h.takePending hp) hi

end Sys2Proof.Machine
end

section
/-! The disabled mode and the lifecycle events (10_state.md R21, R46, R48; 40_register_access.md R100; 42_lifecycle.md
R170 to R172). -/

namespace Sys2Proof.Machine

variable {i : Instr} {s : State}

/-- A bus read of a disabled block answers SENTINEL (40_register_access.md R100). -/
theorem exec_read_disabled (he : s.enabled = false) (hi : i.isRead = true) :
    exec i s = .next (s.answer s.cfg.sentinel) := by
  cases i with
  | rdStatus | rdRow | rdData | rdClear => exact gateRead_disabled he
  | _ => cases hi

/-- Every other event of a disabled block but ENABLE does nothing (R100, R142, R171, R172). -/
theorem exec_disabled_of_not_read (he : s.enabled = false) (hi : i.isRead = false) (hne : i ≠ .enable) :
    exec i s = .next s := by
  cases i with
  | rdStatus | rdRow | rdData | rdClear => cases hi
  | enable => exact absurd rfl hne
  | _ => exact gate_disabled he

/-- Settles O14: the gate answers SENTINEL to a read and holds every field for the others. -/
theorem onlyEnableWakesTheBlock : Obligations.OnlyEnableWakesTheBlock := by
  intro s e rest i he hp hi hne
  have hstep : step s = exec i ((s.withPending rest).takeInputs e) := by
    simp only [step, hp, stepEvent_ok hi]
  rw [hstep]
  cases hr : i.isRead with
  | true => exact exec_read_disabled he hr
  | false => exact exec_disabled_of_not_read he hr hne

/-- The mode after every event. -/
theorem exec_enabled_eq {t : State} (h : exec i s = .next t) :
    t.enabled = if i = .enable then true else if i = .disable then false else s.enabled := by
  cases exec_effect h with
  | sentinel he hi =>
    have hne : i ≠ .enable := by rintro rfl; cases hi
    simp [he, hne]
  | inert he hi hne => simp [he, hne]
  | enableAgain he => exact he
  | _ => rfl

/-- Settles O47: the mode after every event, and the gate while it is off. -/
theorem onlyEnableAndDisableChangeTheMode : Obligations.OnlyEnableAndDisableChangeTheMode := by
  refine ⟨fun i s t => exec_enabled_eq, fun i s t he hhost h => ?_⟩
  cases hr : i.isRead with
  | true =>
    rw [exec_read_disabled he hr] at h
    cases h
    exact ⟨fun _ => rfl, rfl, nofun⟩
  | false =>
    have hne : i ≠ .enable := by rintro rfl; cases hhost
    rw [exec_disabled_of_not_read he hr hne] at h
    cases h
    exact ⟨nofun, rfl, fun _ => rfl⟩

/-- The reset values, field by field (10_state.md R46). -/
theorem loadResetValues_of_wf (hc : s.cfg.wf = true) : s.loadResetValues = { s with
    fsyn := false
    dew := false
    dor := false
    int := false
    channel := 0#2
    intsEn := false
    outEn := false
    afcEn := false
    linksB := false
    rowPtr := 0
    colPtr := 0
    irq := false
    pastEnd := false } := by
  simp only [State.loadResetValues, State.loadFlags, statusReset_flag_of_wf hc, Nat.reduceLeDiff, Nat.reduceLT]

/-- ENABLE from the disabled mode. -/
theorem exec_enable_disabled (he : s.enabled = false) :
    exec .enable s = .next { s.loadResetValues with enabled := true, rb := s.rb0 } := by
  simp [exec, execEnable, he]

/-- RESET while enabled. -/
theorem exec_reset_enabled (he : s.enabled = true) : exec .reset s = .next s.loadResetValues := gate_enabled he

/-- Settles O37: the reset values, with the mode on and the RowBuffer from rb0. -/
theorem enableLoadsTheResetValues : Obligations.EnableLoadsTheResetValues := by
  intro s he hc
  rw [exec_enable_disabled he, loadResetValues_of_wf hc]

/-- Settles O38: the reset values alone. -/
theorem resetLoadsTheResetValues : Obligations.ResetLoadsTheResetValues := by
  intro s he hc
  rw [exec_reset_enabled he, loadResetValues_of_wf hc]

/-- Settles O41: ENABLE reads of the state only the fields on which the two agree. -/
theorem nothingHeldSurvivesEnable : Obligations.NothingHeldSurvivesEnable := by
  intro s u hs hu hcfg hrb0 hfeed hpending hreturned
  refine ⟨_, exec_enable_disabled hs, ?_⟩
  rw [exec_enable_disabled hu]
  simp only [State.loadResetValues, State.loadFlags, hcfg, hrb0, hfeed, hpending, hreturned]

end Sys2Proof.Machine
end

section
/-! The Data accesses under index_policy = refuse (10_state.md R34; 60_exceptions.md R191; D3). -/

namespace Sys2Proof.Machine

variable {s : State}

/-- RD DATA while enabled. -/
theorem exec_rdData_enabled (he : s.enabled = true) : exec .rdData s =
    if s.refusesData then .refused .indexOutOfRange else .next (s.advanceCol.answer (s.rb.read s.cursorAddr)) :=
  gateRead_enabled he

/-- WR DATA while enabled. -/
theorem exec_wrData_enabled (he : s.enabled = true) (d : Byte) : exec (.wrData d) s =
    if s.refusesData then .refused .indexOutOfRange else .next (s.storeAtCursor d).advanceCol :=
  gate_enabled he

/-- Under the refuse policy `past_end` alone decides. -/
theorem refusesData_of_refuse (hp : s.cfg.indexPolicy = .refuse) : s.refusesData = s.pastEnd := by
  simp [State.refusesData, hp]

/-- One Data access under the refuse policy, from a column not past the end. -/
theorem advanceCol_of_refuse (hc : s.cfg.wf = true) (hp : s.cfg.indexPolicy = .refuse) (hpast : s.pastEnd = false) :
    s.advanceCol = { s with
      colPtr := (s.colPtr + 1) % s.cfg.ncols
      pastEnd := decide (s.colPtr + 1 = s.cfg.ncols) } := by
  simp [State.advanceCol, nextCol_of_wf hc, hp, hpast]

/-- Settles O24: the gate is open, so `past_end` alone decides between the refusal and the access. -/
theorem dataAccessUnderRefusePolicy : Obligations.DataAccessUnderRefusePolicy := by
  intro s d he hc hp
  rw [exec_rdData_enabled he, exec_wrData_enabled he, refusesData_of_refuse hp]
  refine ⟨fun hpast => ⟨if_pos hpast, if_pos hpast⟩, fun hpast => ?_⟩
  have hrd := advanceCol_of_refuse hc hp hpast
  have hwr := advanceCol_of_refuse (s := s.storeAtCursor d) hc hp hpast
  rw [hrd, hwr, hpast]
  exact ⟨rfl, rfl⟩

end Sys2Proof.Machine
end

section
/-! Who writes what: the parameters, the ControlState, the cursor and the RowBuffer (10_state.md R29 to R35, R37). -/

namespace Sys2Proof.Machine

/-- Settles O11: taking an event writes none, and no meaning does. -/
theorem noStepChangesTheParameters : Obligations.NoStepChangesTheParameters := by
  intro s t h
  rcases step_next h with ⟨-, rfl⟩ | ⟨e, rest, i, -, -, hi⟩
  · rfl
  · exact (exec_cfg hi).trans rfl

/-- Settles O48: every other effect leaves the five fields as they are. -/
theorem controlStateWriters : Obligations.ControlStateWriters := by
  intro i s t h hwr hreset henable
  cases exec_effect h with
  | wrStatus d => exact absurd rfl (hwr d)
  | reset => exact absurd rfl hreset
  | enable => exact absurd rfl henable
  | _ => exact ⟨rfl, rfl, rfl, rfl, rfl⟩

/-- Settles O49: a Data access moves the column only, every other effect neither pointer. -/
theorem cursorWriters : Obligations.CursorWriters := by
  intro i s t h hwr hreset henable
  cases exec_effect h with
  | wrRow d => exact absurd rfl (hwr d)
  | reset => exact absurd rfl hreset
  | enable => exact absurd rfl henable
  | rdData | wrData => exact ⟨rfl, nofun⟩
  | _ => exact ⟨rfl, fun _ => rfl⟩

/-- Settles O50: every other effect leaves the RowBuffer as it is. -/
theorem rowBufferWriters : Obligations.RowBufferWriters := by
  intro i s t h hwr hpoll henable
  cases exec_effect h with
  | wrData d => exact absurd rfl (hwr d)
  | pollData | pollQuiet => exact absurd rfl hpoll
  | enable => exact absurd rfl henable
  | _ => rfl

end Sys2Proof.Machine
end

section
/-! The RowBuffer's canonical form: one list for each content (10_state.md R35; 20_memory.md R74; log 5). -/

namespace Sys2Proof.Machine

namespace Memory

variable {size lo : Nat}

/-- A canonical list with a first entry, entry and rest apart. -/
theorem wfFrom_cons {k : Nat} {v : Byte} {rest : Memory} : wfFrom size lo ((k, v) :: rest) = true ↔
    lo ≤ k ∧ k < size ∧ v ≠ unlisted ∧ wfFrom size (k + 1) rest = true := by
  simp only [wfFrom, Bool.and_eq_true, decide_eq_true_eq, and_assoc]

/-- A canonical list lists no address below its start. -/
theorem le_of_read_ne {m : Memory} (hm : wfFrom size lo m = true) {a : Nat} (ha : m.read a ≠ unlisted) : lo ≤ a :=
  Nat.le_of_not_lt fun hlt => ha (read_of_lt hm hlt)

@[simp] theorem read_cons_same (k : Nat) (v : Byte) (rest : Memory) : read ((k, v) :: rest) k = v := if_pos rfl

/-- The heads of two canonical lists that read alike: neither address is below the other, since the head's byte is
listed. -/
theorem head_le_of_read_eq {lo' k k' : Nat} {v v' : Byte} {rest rest' : Memory}
    (hm : wfFrom size lo ((k, v) :: rest) = true) (hm' : wfFrom size lo' ((k', v') :: rest') = true)
    (h : ∀ a, read ((k, v) :: rest) a = read ((k', v') :: rest') a) : k' ≤ k := by
  obtain ⟨-, -, hv, -⟩ := wfFrom_cons.mp hm
  obtain ⟨-, hk', hv', hrest'⟩ := wfFrom_cons.mp hm'
  have hfrom : wfFrom size k' ((k', v') :: rest') = true := wfFrom_cons.mpr ⟨Nat.le_refl k', hk', hv', hrest'⟩
  apply le_of_read_ne hfrom
  rwa [← h, read_cons_same]

/-- Two lists canonical from the same address on that read alike are equal. -/
theorem eq_of_read_eq {m m' : Memory} (hm : wfFrom size lo m = true)
    (hm' : wfFrom size lo m' = true) (h : ∀ a, m.read a = m'.read a) : m = m' := by
  induction m generalizing lo m' with
  | nil =>
    cases m' with
    | nil => rfl
    | cons c' rest' =>
      obtain ⟨k', v'⟩ := c'
      obtain ⟨-, -, hv', -⟩ := wfFrom_cons.mp hm'
      exact absurd ((read_cons_same k' v' rest').symm.trans (h k').symm) hv'
  | cons c rest ih =>
    obtain ⟨k, v⟩ := c
    obtain ⟨-, -, hv, hrest⟩ := wfFrom_cons.mp hm
    cases m' with
    | nil => exact absurd ((read_cons_same k v rest).symm.trans (h k)) hv
    | cons c' rest' =>
      obtain ⟨k', v'⟩ := c'
      obtain ⟨-, -, -, hrest'⟩ := wfFrom_cons.mp hm'
      obtain rfl : k = k' :=
        Nat.le_antisymm (head_le_of_read_eq hm' hm fun a => (h a).symm) (head_le_of_read_eq hm hm' h)
      obtain rfl : v = v' := by simpa using h k
      have hread (a : Nat) : read rest a = read rest' a := by
        rcases Nat.lt_or_ge k a with hlt | hge
        · simpa [read, Nat.ne_of_lt hlt] using h a
        · rw [read_of_lt hrest (Nat.lt_succ_of_le hge), read_of_lt hrest' (Nat.lt_succ_of_le hge)]
      rw [ih hrest hrest' hread]

end Memory

/-- Settles O59: a canonical form from address 0 on is determined by what it reads. -/
theorem canonicalMemoriesThatReadAlikeAreEqual : Obligations.CanonicalMemoriesThatReadAlikeAreEqual :=
  fun _ _ _ hm hm' h => Memory.eq_of_read_eq hm hm' h

end Sys2Proof.Machine
end

section
/-! The sticky flags (10_state.md R24 to R28). -/

namespace Sys2Proof.Machine

variable {i : Instr} {s t : State}

/-- Settles O45: STICKY_MASK has no bit 5, the reset latch has it clear, a Clear access only takes it down (R25). -/
theorem nothingSetsDew : Obligations.NothingSetsDew := by
  intro i s t hc h hdew
  have hreset : s.cfg.statusReset.getLsbD 5 = false := statusReset_flag_of_wf hc (by decide) (by decide)
  cases exec_effect h with
  | rdClear | wrClear => exact (Bool.and_eq_true_iff.mp hdew).1
  | pollData => simpa [stickyMask_of_wf hc] using hdew
  | reset | enable => exact absurd (hdew.symm.trans hreset) (by decide)
  | _ => exact hdew

/-- The events that write no flag: all but POLL, the Clear accesses, RESET and ENABLE. -/
theorem exec_sameFlags (h : exec i s = .next t) (hpoll : i ≠ .poll) (hclear : i.isClearAccess = false)
    (hreset : i ≠ .reset) (henable : i ≠ .enable) : t.fsyn = s.fsyn ∧ t.dew = s.dew ∧ t.dor = s.dor ∧ t.int = s.int := by
  cases exec_effect h with
  | pollData | pollQuiet => exact absurd rfl hpoll
  | rdClear | wrClear => cases hclear
  | reset => exact absurd rfl hreset
  | enable => exact absurd rfl henable
  | _ => exact ⟨rfl, rfl, rfl, rfl⟩

/-- FSYN, DOR and INT of the second state are up where those of the first are (10_state.md R28). -/
def DataFlagsRise (s t : State) : Prop :=
  (s.fsyn = true → t.fsyn = true) ∧ (s.dor = true → t.dor = true) ∧ (s.int = true → t.int = true)

theorem DataFlagsRise.trans {u : State} (h : DataFlagsRise s t) (h' : DataFlagsRise t u) : DataFlagsRise s u := by
  obtain ⟨hf, hd, hi⟩ := h
  obtain ⟨hf', hd', hi'⟩ := h'
  exact ⟨hf' ∘ hf, hd' ∘ hd, hi' ∘ hi⟩

/-- Only a Clear access, RESET or ENABLE takes one of the flags down. -/
theorem exec_dataFlagsRise (h : exec i s = .next t) (hclear : i.isClearAccess = false) (hreset : i ≠ .reset)
    (henable : i ≠ .enable) : DataFlagsRise s t := by
  cases exec_effect h with
  | rdClear | wrClear => cases hclear
  | reset => exact absurd rfl hreset
  | enable => exact absurd rfl henable
  | pollData => exact ⟨Bool.or_inl, Bool.or_inl, Bool.or_inl⟩
  | _ => exact ⟨id, id, id⟩

/-- What every event of a run keeps, the run keeps. -/
theorem runEvents_keeps {P : State → Prop} {es : List Event}
    (hP : ∀ e ∈ es, ∀ i u v, decode e.word = .ok i → exec i (u.takeInputs e) = .next v → P u → P v) (hs : P s)
    (h : runEvents es s = .next t) : P t := by
  induction es generalizing s with
  | nil => cases h; exact hs
  | cons e es ih =>
    simp only [runEvents] at h
    split at h
    · next s' hs' =>
      simp only [stepEvent] at hs'
      split at hs'
      · next i hi =>
        exact ih (fun e' he' => hP e' (List.mem_cons_of_mem e he')) (hP e List.mem_cons_self i s s' hi hs' hs) h
      · cases hs'
    · cases h
    · cases h

/-- Settles O44: one event that clears nothing lets the flags rise, so a run of them does. -/
theorem stickyFlagsAreMonotoneBetweenClears : Obligations.StickyFlagsAreMonotoneBetweenClears := by
  constructor
  · intro es s t hes h
    refine runEvents_keeps (P := DataFlagsRise s) (fun e he i u v hi hv hu => ?_) ⟨id, id, id⟩ h
    obtain ⟨hclear, hreset, henable⟩ := hes e he i hi
    exact hu.trans (exec_dataFlagsRise (s := u.takeInputs e) hv hclear hreset henable)
  · intro i s t hhost hclear h
    refine exec_sameFlags h ?_ hclear ?_ ?_ <;> rintro rfl <;> cases hhost

/-- A POLL with a payload on some slot sets FSYN and DOR (41_poll_bridge.md R146). -/
theorem exec_poll_sets_dataFlags (hc : s.cfg.wf = true) (he : s.enabled = true) (hp : anyPayload s.cfg s.feed = true)
    (h : exec .poll s = .next t) : t.fsyn = true ∧ t.dor = true := by
  have hlatch : s.latchDataReady = s.setFlags 0xD0#8 := by rw [← stickyMask_of_wf hc]; exact if_pos hp
  rcases execPoll_next h with ⟨-, rfl⟩ | ⟨hd, -⟩
  · simp [hlatch]
  · cases he.symm.trans hd

/-- A Clear access clears FSYN and DOR at the default CLEAR_MASK (40_register_access.md R108, R109). -/
theorem exec_clear_dataFlags (hm : s.cfg.clearMask = 0xD0#8) (he : s.enabled = true) (hi : i.isClearAccess = true)
    (h : exec i s = .next t) : t.fsyn = false ∧ t.dor = false := by
  cases exec_effect h with
  | sentinel hd | inert hd => cases he.symm.trans hd
  | rdClear | wrClear => simp [hm]
  | _ => cases hi

/-- Settles O43: one clause for each of the flags' setters, clearers, readers, and the frame of the rest. -/
theorem fsynAndDorTransitions : Obligations.FsynAndDorTransitions := by
  intro i s t hc hm h
  have hfsyn : s.cfg.statusReset.getLsbD 4 = false := statusReset_flag_of_wf hc (by decide) (by decide)
  have hdor : s.cfg.statusReset.getLsbD 6 = false := statusReset_flag_of_wf hc (by decide) (by decide)
  refine ⟨?set, ?clear, ?enable, ?other, ?read⟩
  case set =>
    rintro he rfl hp
    exact exec_poll_sets_dataFlags hc he (anyPayload_iff.mpr hp) h
  case clear =>
    rintro he (hclear | rfl)
    · exact exec_clear_dataFlags hm he hclear h
    · rw [exec_reset_enabled he] at h
      cases h
      exact ⟨hfsyn, hdor⟩
  case enable =>
    rintro he rfl
    rw [exec_enable_disabled he] at h
    cases h
    exact ⟨hfsyn, hdor⟩
  case other =>
    intro hchanged
    by_contra hnot
    simp only [not_or, Bool.not_eq_true] at hnot
    obtain ⟨hpoll, hclear, hreset, henable⟩ := hnot
    obtain ⟨hf, -, hd, -⟩ := exec_sameFlags h hpoll hclear hreset henable
    exact hchanged.elim (· hf) (· hd)
  case read =>
    rintro he rfl
    rcases execRdStatus_next h with ⟨-, rfl⟩ | ⟨hd, -⟩
    · exact ⟨statusByte s, rfl, by simp⟩
    · cases he.symm.trans hd

end Sys2Proof.Machine
end

section
/-! The host's bus: the four ports at BASE plus their numbers (20_memory.md R61, R62; 00_scope.md R9; D14). -/

namespace Sys2Proof

variable {c : Params}

/-- The data bus carries the low 8 bits of a host value (20_memory.md R62). -/
theorem busByte_of_dataBits (hc : c.dataBits = 8) (value : Nat) : busByte c value = BitVec.ofNat 8 value := by
  rw [busByte, hc]
  exact BitVec.eq_of_toNat_eq (by simp)

/-- An address outside the four ports gives the block no offset. -/
theorem offsetOfHostAddress_outside (hc : c.portBits = 2) {addr : Nat}
    (h : addr < Config.BASE ∨ Config.BASE + 4 ≤ addr) : offsetOfHostAddress c addr = none := by
  rw [offsetOfHostAddress, hc]
  exact if_neg (by omega)

/-- Settles O60: a port's address gives back the port's offset, an address outside the ports gives none. -/
theorem hostAccessReachesItsPort : Obligations.HostAccessReachesItsPort := by
  intro c hc
  obtain ⟨-, -, -, -, -, -, hdata, hport, -⟩ := Machine.dimensions_of_wf hc
  refine ⟨fun p => ?read, fun p value => ?write, ⟨rfl, rfl, rfl, rfl⟩, fun addr value h => ?outside⟩
  case read => simp [hostRead, offsetOfHostAddress_hostAddress hport, portOfOffset_offset]
  case write =>
    simp [hostWrite, offsetOfHostAddress_hostAddress hport, portOfOffset_offset, busByte_of_dataBits hdata]
  case outside => simp [hostRead, hostWrite, offsetOfHostAddress_outside hport h]

end Sys2Proof
end

section
/-! A step takes the oldest pending event, and no event reads the pending ones: so a run is a fold (20_memory.md R68;
logs 1 and 17). -/

namespace Sys2Proof.Machine

variable {s : State} {e : Event} {es rest : List Event}

/-- A step with an event pending runs that event, the rest pending. -/
theorem step_of_pending (h : s.pending = e :: rest) : step s = stepEvent e (s.withPending rest) := by
  simp only [step, h]

/-- Settles O7: the oldest event is taken, and its word decodes to i. -/
theorem stepRunsTheDecodedEvent : Obligations.StepRunsTheDecodedEvent := by
  intro s e rest i hp hi
  rw [step_of_pending hp, stepEvent_ok hi]
  rfl

/-- A result with its next state changed; a fault or a refusal stays. -/
def mapNext (f : State → State) : Result → Result
  | .next t => .next (f t)
  | .fault r => .fault r
  | .refused r => .refused r

/-- A choice of results changes with both of its branches. -/
theorem mapNext_ite (f : State → State) (b : Bool) (r r' : Result) :
    mapNext f (if b then r else r') = if b then mapNext f r else mapNext f r' := apply_ite (mapNext f) _ _ _

/-- Setting the pending events to what they are changes nothing. -/
theorem withPending_eq_self (h : s.pending = es) : s.withPending es = s := by subst h; rfl

/-- The gates do not read the pending events. -/
theorem gate_withPending (r : Result) :
    gate (s.withPending es) (mapNext (·.withPending es) r) = mapNext (·.withPending es) (gate s r) := by
  rw [gate, gate, mapNext_ite]
  rfl

theorem gateRead_withPending (r : Result) :
    gateRead (s.withPending es) (mapNext (·.withPending es) r) = mapNext (·.withPending es) (gateRead s r) := by
  rw [gateRead, gateRead, mapNext_ite]
  rfl

/-- Nor does POLL's latch step. -/
theorem latchDataReady_withPending : (s.withPending es).latchDataReady = s.latchDataReady.withPending es := by
  rw [State.latchDataReady, State.latchDataReady, apply_ite (State.withPending · es)]
  rfl

/-- No meaning reads the pending events, and each leaves them as they are. -/
theorem exec_withPending (i : Instr) : exec i (s.withPending es) = mapNext (·.withPending es) (exec i s) := by
  cases i with
  | rdStatus => exact gateRead_withPending (.next (s.answer (statusByte s)))
  | rdRow => exact gateRead_withPending (.next (s.answer 0x00#8))
  | rdClear => exact gateRead_withPending (.next (s.clearAccess.answer 0x00#8))
  | rdData =>
    refine Eq.trans ?_ (gateRead_withPending _)
    rw [mapNext_ite]
    rfl
  | wrStatus d => exact gate_withPending (.next (s.loadControl d).recomputeIrq)
  | wrClear => exact gate_withPending (.next s.clearAccess)
  | wrRow | wrData =>
    refine Eq.trans ?_ (gate_withPending _)
    rw [mapNext_ite]
    rfl
  | poll =>
    refine Eq.trans ?_ (gate_withPending _)
    rw [exec, execPoll, latchDataReady_withPending]
    rfl
  | reset => exact gate_withPending (.next s.loadResetValues)
  | enable =>
    simp only [exec, execEnable, mapNext_ite]
    rfl
  | disable => exact gate_withPending (.next { s with enabled := false })

/-- Nor does an event, with its inputs and its decoding. -/
theorem stepEvent_withPending (e : Event) :
    stepEvent e (s.withPending es) = mapNext (·.withPending es) (stepEvent e s) := by
  simp only [stepEvent]
  split
  · exact exec_withPending (s := s.takeInputs e) _
  · rfl

/-- Nor does a fold of events. -/
theorem runEvents_withPending :
    runEvents es (s.withPending rest) = mapNext (·.withPending rest) (runEvents es s) := by
  induction es generalizing s with
  | nil => rfl
  | cons e es ih =>
    simp only [runEvents, stepEvent_withPending]
    cases stepEvent e s with
    | next t => exact ih
    | fault r => rfl
    | refused r => rfl

/-- As many steps as there are events in a list pending first fold that list, the later events still pending. -/
theorem run_eq_runEvents (h : s.pending = es ++ rest) :
    core.run es.length s = runEvents es (s.withPending rest) := by
  induction es generalizing s with
  | nil => exact congrArg Host.Outcome.next (withPending_eq_self h).symm
  | cons e es ih =>
    have hstep : core.step s = mapNext (·.withPending (es ++ rest)) (stepEvent e s) :=
      (step_of_pending h).trans (stepEvent_withPending e)
    simp only [List.length_cons, Host.Core.run, hstep, runEvents, stepEvent_withPending]
    cases stepEvent e s with
    | next t => exact ih (s := t.withPending (es ++ rest)) rfl
    | fault r => rfl
    | refused r => rfl

/-- Settles O10: the steps fold the list with the later events pending, and no event of the list reads those. -/
theorem runIsTheFoldOfItsEvents : Obligations.RunIsTheFoldOfItsEvents := by
  intro s es rest h
  exact (run_eq_runEvents h).trans (runEvents_withPending (s := s.withPending []))

end Sys2Proof.Machine
end

section
/-! The idempotent events (20_memory.md R65; 42_lifecycle.md R170 to R172; D9). -/

namespace Sys2Proof.Machine

variable {i : Instr} {s t u : State}

/-- A second Clear access finds the flags of CLEAR_MASK and the line down. -/
@[simp] theorem clearAccess_clearAccess : s.clearAccess.clearAccess = s.clearAccess := by
  simp [State.clearAccess, State.clearFlags]

/-- An event that is no POLL and no Data access leaves a state in which it changes nothing more. -/
theorem exec_again (h : exec i s = .next t) (hpoll : i ≠ .poll) (hdata : i.isDataAccess = false) :
    exec i t = .next t := by
  cases exec_effect h with
  | sentinel he hi => exact exec_read_disabled (s := s.answer _) he hi
  | inert he hi hne => exact exec_disabled_of_not_read he hi hne
  | rdStatus he | rdRow he => exact gateRead_enabled (s := s.answer _) he
  | rdClear he =>
    calc exec .rdClear (s.clearAccess.answer 0x00#8)
      _ = .next (s.clearAccess.clearAccess.answer 0x00#8) := gateRead_enabled (s := s.clearAccess.answer _) he
      _ = .next (s.clearAccess.answer 0x00#8) := by rw [clearAccess_clearAccess]
  | wrStatus d he => exact gate_enabled (s := (s.loadControl d).recomputeIrq) he
  | wrRow d he hr =>
    have hr' : ¬(s.seekRow (rowField s.cfg d)).refusesRow d = true := Bool.eq_false_iff.mp hr
    exact (gate_enabled (s := s.seekRow _) he).trans (if_neg hr')
  | wrClear d he =>
    calc exec (.wrClear d) s.clearAccess
      _ = .next s.clearAccess.clearAccess := gate_enabled (s := s.clearAccess) he
      _ = .next s.clearAccess := by rw [clearAccess_clearAccess]
  | rdData | wrData => cases hdata
  | pollData | pollQuiet => exact absurd rfl hpoll
  | reset he => exact gate_enabled (s := s.loadResetValues) he
  | enableAgain => exact h
  | enable => rfl
  | disable => rfl

/-- Settles O53: the second run of the event changes nothing. -/
theorem idempotentEvents : Obligations.IdempotentEvents := by
  intro i s t u hpoll hdata ht hu
  rw [exec_again ht hpoll hdata] at hu
  exact (Host.Outcome.next.inj hu).symm

end Sys2Proof.Machine
end

section
/-! The Row and Data accesses under index_policy = mask, and runs of Data accesses within a row (30_encoding.md R92;
40_register_access.md R105 to R107; D2, D3). -/

namespace Sys2Proof.Machine

variable {s : State}

/-- WR ROW while enabled. -/
theorem exec_wrRow_enabled (he : s.enabled = true) (d : Byte) : exec (.wrRow d) s =
    if s.refusesRow d then .refused .indexOutOfRange else .next (s.seekRow (rowField s.cfg d)) :=
  gate_enabled he

/-- Under the mask policy no access is refused. -/
theorem refusesRow_of_mask (hp : s.cfg.indexPolicy = .mask) (d : Byte) : s.refusesRow d = false := by
  simp [State.refusesRow, hp]

theorem refusesData_of_mask (hp : s.cfg.indexPolicy = .mask) : s.refusesData = false := by
  simp [State.refusesData, hp]

/-- Under the mask policy a Data access moves the column only. -/
theorem advanceCol_of_mask (hc : s.cfg.wf = true) (hp : s.cfg.indexPolicy = .mask) :
    s.advanceCol = { s with colPtr := (s.colPtr + 1) % s.cfg.ncols } := by
  simp [State.advanceCol, nextCol_of_wf hc, hp]

section

variable (he : s.enabled = true) (hc : s.cfg.wf = true) (hp : s.cfg.indexPolicy = .mask)
include he hc hp

/-- WR ROW under the mask policy (R105, D2). -/
theorem exec_wrRow_of_mask (d : Byte) : exec (.wrRow d) s = .next (s.seekRow (d.toNat % s.cfg.nrows)) := by
  simp [exec_wrRow_enabled he, refusesRow_of_mask hp, rowField_of_wf hc]

/-- RD DATA under the mask policy (R106, D3). -/
theorem exec_rdData_of_mask : exec .rdData s = .next { s with
    returned := some (s.rb.read s.cursorAddr)
    colPtr := (s.colPtr + 1) % s.cfg.ncols } := by
  simp [exec_rdData_enabled he, refusesData_of_mask hp, advanceCol_of_mask hc hp, State.answer]

/-- WR DATA under the mask policy (R107, D3). -/
theorem exec_wrData_of_mask (d : Byte) : exec (.wrData d) s = .next { s with
    rb := s.rb.write s.cursorAddr d
    colPtr := (s.colPtr + 1) % s.cfg.ncols } := by
  have hadvance := advanceCol_of_mask (s := s.storeAtCursor d) hc hp
  rw [exec_wrData_enabled he, refusesData_of_mask hp, hadvance]
  rfl

/-- PUT from column 0, of at most a row: byte k stands at column k. -/
theorem runInstrs_put {bytes : List Byte} (hrow : s.rowPtr < s.cfg.nrows) (hcol : s.colPtr = 0)
    (hrb : s.rb.wf s.cfg = true) (hlen : bytes.length ≤ s.cfg.ncols) :
    ∃ m : Memory, runInstrs (bytes.map .wrData) s =
        .next { s with rb := m, colPtr := bytes.length % s.cfg.ncols } ∧
      m.wf s.cfg = true ∧ ∀ k b, bytes[k]? = some b → m.read (rbAddr s.cfg s.rowPtr k) = b := by
  induction bytes using List.reverseRecOn with
  | nil =>
    have hs : ({ s with colPtr := 0 } : State) = s := by rw [← hcol]
    exact ⟨s.rb, by simp [runInstrs_nil, hs], hrb, by simp⟩
  | append_singleton bytes b ih =>
    have hlt : bytes.length < s.cfg.ncols := by simpa using hlen
    obtain ⟨m, hrun, hm, hread⟩ := ih hlt.le
    rw [Nat.mod_eq_of_lt hlt] at hrun
    have hput := exec_wrData_of_mask (s := { s with rb := m, colPtr := bytes.length }) he hc hp b
    refine ⟨m.write (rbAddr s.cfg s.rowPtr bytes.length) b, ?_, Memory.wf_write hm (rbAddr_lt hrow hlt) b, ?_⟩
    · rw [List.map_append, runInstrs_append hrun, List.map_singleton, runInstrs_cons_next hput, runInstrs_nil,
        List.length_append]
      rfl
    · intro k b' hk
      rw [Memory.read_write hm]
      rcases Nat.lt_or_ge k bytes.length with hklt | hge
      · rw [List.getElem?_append_left hklt] at hk
        rw [if_neg (rbAddr_ne (hklt.trans hlt) hlt (.inr hklt.ne))]
        exact hread k b' hk
      · have hkle : k < (bytes ++ [b]).length := (List.getElem?_eq_some_iff.mp hk).1
        rw [List.length_append, List.length_singleton] at hkle
        obtain rfl : k = bytes.length := Nat.le_antisymm (Nat.le_of_lt_succ hkle) hge
        simpa using hk

/-- GET from column 0 moves the column on and returns some byte, or none for none. -/
theorem runInstrs_get (hcol : s.colPtr = 0) (n : Nat) : ∃ v, runInstrs (List.replicate n .rdData) s =
    .next { s with colPtr := n % s.cfg.ncols, returned := v } := by
  induction n with
  | zero =>
    have hs : ({ s with colPtr := 0 } : State) = s := by rw [← hcol]
    exact ⟨s.returned, by simp [runInstrs_nil, hs]⟩
  | succ n ih =>
    obtain ⟨v, hrun⟩ := ih
    have hget := exec_rdData_of_mask (s := { s with colPtr := n % s.cfg.ncols, returned := v }) he hc hp
    rw [List.replicate_succ', runInstrs_append hrun, runInstrs_cons_next hget, runInstrs_nil, Nat.mod_add_mod]
    exact ⟨_, rfl⟩

/-- GET of n + 1 bytes from column 0 returns, as its last byte, the byte at column n. -/
theorem runInstrs_get_last (hcol : s.colPtr = 0) {n : Nat} (hn : n < s.cfg.ncols) :
    ∃ t, runInstrs (List.replicate (n + 1) .rdData) s = .next t ∧
      t.returned = some (s.rb.read (rbAddr s.cfg s.rowPtr n)) := by
  obtain ⟨v, hrun⟩ := runInstrs_get he hc hp hcol n
  rw [Nat.mod_eq_of_lt hn] at hrun
  have hget := exec_rdData_of_mask (s := { s with colPtr := n, returned := v }) he hc hp
  rw [List.replicate_succ', runInstrs_append hrun, runInstrs_cons_next hget, runInstrs_nil]
  exact ⟨_, rfl, rfl⟩

/-- SEEK r, then PUT of at most a row: byte k stands at column k of row r. -/
theorem runInstrs_seek_put (r : Byte) {bytes : List Byte} (hrb : s.rb.wf s.cfg = true)
    (hlen : bytes.length ≤ s.cfg.ncols) :
    ∃ u, runInstrs (pseudoInstrs s.cfg (.seek r) ++ pseudoInstrs s.cfg (.put bytes)) s = .next u ∧
      u.enabled = true ∧ u.cfg = s.cfg ∧
      ∀ k b, bytes[k]? = some b → u.rb.read (rbAddr s.cfg (r.toNat % s.cfg.nrows) k) = b := by
  have hrow : r.toNat % s.cfg.nrows < s.cfg.nrows := rowField_of_wf hc r ▸ rowField_lt hc r
  obtain ⟨m, hput, -, hread⟩ := runInstrs_put (s := s.seekRow (r.toNat % s.cfg.nrows)) he hc hp hrow rfl hrb hlen
  exact ⟨_, (runInstrs_cons_next (exec_wrRow_of_mask he hc hp r)).trans hput, he, rfl, hread⟩

/-- READROW r of n + 1 bytes returns, as its last byte, the byte at column n of row r. -/
theorem runInstrs_readRow (r : Byte) {n : Nat} (hn : n < s.cfg.ncols) :
    ∃ t, runInstrs (pseudoInstrs s.cfg (.readRow r (n + 1))) s = .next t ∧
      t.returned = some (s.rb.read (rbAddr s.cfg (r.toNat % s.cfg.nrows) n)) := by
  rw [pseudoInstrs, runInstrs_cons_next (exec_wrRow_of_mask he hc hp r)]
  exact runInstrs_get_last (s := s.seekRow (r.toNat % s.cfg.nrows)) he hc hp rfl hn

end

/-- Settles O26: PUT leaves byte k at column k of the row, and READROW's last byte is the one at column n. -/
theorem hostGetsBackWhatItPut : Obligations.HostGetsBackWhatItPut := by
  intro s r bytes n he hc hp hrb hlen hn
  obtain ⟨u, hput, hu, hcfg, hread⟩ := runInstrs_seek_put he hc hp r hrb hlen
  rw [← hcfg] at hc hp hlen
  obtain ⟨t, hget, hlast⟩ := runInstrs_readRow hu hc hp r (hn.trans_le hlen)
  rw [hcfg] at hget hlast
  have hbyte : bytes[n]? = some bytes[n] := List.getElem?_eq_getElem hn
  exact ⟨t, (runInstrs_append hput).trans hget, by rw [hlast, hbyte, hread n _ hbyte]⟩

end Sys2Proof.Machine
end

section
/-! The encoding: the word formats and the opcode map agree (30_encoding.md R81 to R85, R88, R89; D15). -/

namespace Sys2Proof

variable {w : EventWord}

/-- A word whose bits 11:8 are a write format's is that port's write of D (30_encoding.md R83). -/
theorem decode_of_writeBits {p : Port} (h : w.toNat / 256 = 4 + p.offset.toNat) :
    decode w = .ok (p.writeEvent (operandD w)) := by
  have hread {k : EventWord} (hk : k.toNat / 256 < 4) : w ≠ k := by
    rintro rfl
    omega
  rw [decode_eq, if_neg (hread (by decide)), if_neg (hread (by decide)), if_neg (hread (by decide)),
    if_neg (hread (by decide)), h]
  cases p <;> rfl

/-- The operand field of a write word is its D. -/
theorem operandD_formatBW (p : Port) (d : Byte) : operandD (formatBW p d) = d := by
  apply BitVec.eq_of_toNat_eq
  rw [operandD_toNat, formatBW_toNat]
  omega

/-- A word whose bits 11:8 are a write format's is that format of its operand field. -/
theorem formatBW_operandD {p : Port} (h : w.toNat / 256 = 4 + p.offset.toNat) : formatBW p (operandD w) = w := by
  apply BitVec.eq_of_toNat_eq
  rw [formatBW_toNat, operandD_toNat]
  omega

/-- A bus write word decodes to its port's write of D (30_encoding.md R83). -/
theorem decode_formatBW (p : Port) (d : Byte) : decode (formatBW p d) = .ok (p.writeEvent d) := by
  have hbits : (formatBW p d).toNat / 256 = 4 + p.offset.toNat := by
    rw [formatBW_toNat]
    omega
  rw [decode_of_writeBits hbits, operandD_formatBW]

/-- Settles O1: a write's word carries its operand in D, and the eight other words are constants. -/
theorem decodeOfEncodeIsTheEvent : Obligations.DecodeOfEncodeIsTheEvent := by
  intro i _
  cases i with
  | wrStatus d => exact decode_formatBW .status d
  | wrRow d => exact decode_formatBW .row d
  | wrData d => exact decode_formatBW .data d
  | wrClear d => exact decode_formatBW .clear d
  | rdStatus | rdRow | rdData | rdClear | poll | reset | enable | disable => decide

/-- Settles O2: case by case over what the decoder can answer. -/
theorem encodeOfDecodeIsTheWord : Obligations.EncodeOfDecodeIsTheWord := by
  intro w i h
  rcases decode_cases h with ⟨rfl, rfl⟩ | ⟨rfl, rfl⟩ | ⟨rfl, rfl⟩ | ⟨rfl, rfl⟩ | ⟨hw, rfl⟩ | ⟨hw, rfl⟩ | ⟨hw, rfl⟩ |
    ⟨hw, rfl⟩ | ⟨rfl, rfl⟩ | ⟨rfl, rfl⟩ | ⟨rfl, rfl⟩ | ⟨rfl, rfl⟩
  · rfl
  · rfl
  · rfl
  · rfl
  · exact formatBW_operandD (p := .status) hw
  · exact formatBW_operandD (p := .row) hw
  · exact formatBW_operandD (p := .data) hw
  · exact formatBW_operandD (p := .clear) hw
  · rfl
  · rfl
  · rfl
  · rfl

/-- Two rows that fit one word agree on the bits both of them test. -/
theorem OpcodeRow.agree_of_fits {r r' : OpcodeRow} (h : r.fits w = true) (h' : r'.fits w = true) :
    r.matchBits &&& r'.mask = r'.matchBits &&& r.mask := by
  rw [← of_decide_eq_true h, ← of_decide_eq_true h', BitVec.and_assoc, BitVec.and_assoc, BitVec.and_comm r.mask]

/-- Two rows of the opcode map that agree on the bits both test are one row (30_encoding.md R89). -/
theorem opcodeMap_separated : ∀ r ∈ opcodeMap, ∀ r' ∈ opcodeMap,
    r.matchBits &&& r'.mask = r'.matchBits &&& r.mask → r.matchBits = r'.matchBits ∧ r.mask = r'.mask := by
  decide

/-- A word is refused exactly when no row fits it. -/
theorem firstFit_eq_error_iff (rows : List OpcodeRow) (w : EventWord) :
    firstFit rows w = .error .reservedEventWord ↔ ∀ r ∈ rows, r.fits w = false := by
  induction rows with
  | nil => simp [firstFit]
  | cons r rows ih => cases hr : r.fits w <;> simp [firstFit, hr, ih]

/-- Settles O3: a common word makes two rows agree where both test, and the map has no two different rows that do. -/
theorem opcodeRowsAreDisjoint : Obligations.OpcodeRowsAreDisjoint :=
  ⟨fun _ r hr r' hr' h h' => opcodeMap_separated r hr r' hr' (OpcodeRow.agree_of_fits h h'),
    firstFit_eq_error_iff opcodeMap⟩

/-- The refused words by their numbers: none of the eight constant words, no write word. -/
theorem decode_eq_error_iff : decode w = .error .reservedEventWord ↔
    w.toNat ≠ 0x000 ∧ w.toNat ≠ 0x100 ∧ w.toNat ≠ 0x200 ∧ w.toNat ≠ 0x300 ∧
    w.toNat / 256 ≠ 4 ∧ w.toNat / 256 ≠ 5 ∧ w.toNat / 256 ≠ 6 ∧ w.toNat / 256 ≠ 7 ∧
    w.toNat ≠ 0x800 ∧ w.toNat ≠ 0xC00 ∧ w.toNat ≠ 0xD00 ∧ w.toNat ≠ 0xE00 := by
  rw [decode, firstFit_eq_error_iff]
  simp [opcodeMap, fits_exact, fits_write, ← BitVec.toNat_inj]

/-- Settles O4: the numbers that are no row's, counted out. -/
theorem reservedWordsAreExactlyTheListed : Obligations.ReservedWordsAreExactlyTheListed := by
  intro w
  have hw : w.toNat < 4096 := w.isLt
  rw [decode_eq_error_iff]
  omega

/-- Settles O5: the nineteen words, by computation. -/
theorem encodingVectorsDecode : Obligations.EncodingVectorsDecode := by
  unfold Obligations.EncodingVectorsDecode
  decide

end Sys2Proof
end

section
/-! The Status write byte under any usable layout, and what writing it does (30_encoding.md R86, R87;
40_register_access.md R103; D1). -/

namespace Sys2Proof.Machine

/-- The bits a usable layout gives its fields stand inside the byte. -/
theorem layout_bits_lt {l : StatusLayout} (h : l.wf = true) :
    l.channel + 1 < 8 ∧ l.outEn < 8 ∧ l.intsEn < 8 ∧ l.afcEn < 8 ∧ l.linksB < 8 := by
  simp only [StatusLayout.wf, StatusLayout.bits, Bool.and_eq_true, List.all_cons, decide_eq_true_eq] at h
  omega

/-- No two fields of a usable layout share a bit. -/
theorem layout_bits_ne {l : StatusLayout} (h : l.wf = true) :
    (∀ n ∈ [l.outEn, l.intsEn, l.afcEn, l.linksB], n ≠ l.channel ∧ n ≠ l.channel + 1) ∧
    l.outEn ≠ l.intsEn ∧ l.outEn ≠ l.afcEn ∧ l.outEn ≠ l.linksB ∧ l.intsEn ≠ l.afcEn ∧ l.intsEn ≠ l.linksB ∧
    l.afcEn ≠ l.linksB := by
  simp only [StatusLayout.wf, StatusLayout.bits, Bool.and_eq_true, decide_eq_true_eq, List.nodup_cons, List.mem_cons,
    List.not_mem_nil, or_false, not_or] at h
  simp only [List.forall_mem_cons, List.not_mem_nil, false_imp_iff, implies_true, and_true]
  omega

/-- A one-bit field in place stands on its bit and on no other. -/
theorem getLsbD_placed (v : Bool) {n k : Nat} (hk : k < 8) : (placed v n).getLsbD k = (v && decide (k = n)) := by
  rcases lt_trichotomy k n with h | rfl | h
  · simp [placed, h, h.ne]
  · simp [placed, hk]
  · have h0 : k - n ≠ 0 := Nat.sub_ne_zero_of_lt h
    simp [placed, hk, h.ne', h0]

variable {l : StatusLayout} {ch : Channel} {out ints afc lb : Bool}

/-- A bit of the assembled byte: the one-bit fields that stand on it, or the channel's (30_encoding.md R87). -/
theorem getLsbD_statusWr {k : Nat} (hk : k < 8) : (statusWr l ch out ints afc lb).getLsbD k =
    (lb && decide (k = l.linksB) || afc && decide (k = l.afcEn) || ints && decide (k = l.intsEn) ||
      out && decide (k = l.outEn) || !decide (k < l.channel) && ch.getLsbD (k - l.channel)) := by
  have hc : (ch.setWidth 8 <<< l.channel).getLsbD k = (!decide (k < l.channel) && ch.getLsbD (k - l.channel)) := by
    simp [hk]
  simp only [statusWr, BitVec.getLsbD_or, getLsbD_placed _ hk, hc]

/-- Away from the channel's two bits only the one-bit fields stand. -/
theorem getLsbD_statusWr_of_ne_channel {k : Nat} (hk : k < 8) (hne : k ≠ l.channel ∧ k ≠ l.channel + 1) :
    (statusWr l ch out ints afc lb).getLsbD k =
      (lb && decide (k = l.linksB) || afc && decide (k = l.afcEn) || ints && decide (k = l.intsEn) ||
        out && decide (k = l.outEn)) := by
  have hc : (!decide (k < l.channel) && ch.getLsbD (k - l.channel)) = false := by
    by_cases hlt : k < l.channel
    · simp [hlt]
    · simp [BitVec.getLsbD_of_ge ch (k - l.channel) (by omega)]
  rw [getLsbD_statusWr hk, hc, Bool.or_false]

/-- The channel's two bits come back: no one-bit field stands on them. -/
theorem channelField_statusWr (h : l.wf = true) : channelField l (statusWr l ch out ints afc lb) = ch := by
  obtain ⟨hlt, -⟩ := layout_bits_lt h
  obtain ⟨hne, -⟩ := layout_bits_ne h
  simp only [List.forall_mem_cons] at hne
  obtain ⟨hout, hints, hafc, hlb, -⟩ := hne
  apply BitVec.eq_of_getLsbD_eq
  intro i hi
  have hk : l.channel + i < 8 := by omega
  have hout' : l.channel + i ≠ l.outEn := by omega
  have hints' : l.channel + i ≠ l.intsEn := by omega
  have hafc' : l.channel + i ≠ l.afcEn := by omega
  have hlb' : l.channel + i ≠ l.linksB := by omega
  simp [channelField, getLsbD_statusWr hk, hi, hout', hints', hafc', hlb']

/-- Settles O6: in a usable layout each bit of the assembled byte has at most one field. -/
theorem statusWriteByteCarriesItsFields : Obligations.StatusWriteByteCarriesItsFields := by
  intro l ch out ints afc lb h
  obtain ⟨-, hout, hints, hafc, hlb⟩ := layout_bits_lt h
  obtain ⟨hch, houtInts, houtAfc, houtLb, hintsAfc, hintsLb, hafcLb⟩ := layout_bits_ne h
  simp only [List.forall_mem_cons] at hch
  obtain ⟨hchOut, hchInts, hchAfc, hchLb, -⟩ := hch
  refine ⟨channelField_statusWr h, ?out, ?ints, ?afc, ?lb⟩ <;> rw [bitField]
  case out => simp [getLsbD_statusWr_of_ne_channel hout hchOut, houtInts, houtAfc, houtLb]
  case ints => simp [getLsbD_statusWr_of_ne_channel hints hchInts, houtInts.symm, hintsAfc, hintsLb]
  case afc => simp [getLsbD_statusWr_of_ne_channel hafc hchAfc, houtAfc.symm, hintsAfc.symm, hafcLb]
  case lb => simp [getLsbD_statusWr_of_ne_channel hlb hchLb, houtLb.symm, hintsLb.symm, hafcLb.symm]

/-- WR STATUS while enabled. -/
theorem exec_wrStatus_enabled {s : State} (he : s.enabled = true) (d : Byte) :
    exec (.wrStatus d) s = .next (s.loadControl d).recomputeIrq := gate_enabled he

/-- Settles O17: the loaded fields are those the byte was assembled from. -/
theorem statusWriteOfAssembledByte : Obligations.StatusWriteOfAssembledByte := by
  intro s ch out ints afc lb he hl
  obtain ⟨hch, hout, hints, hafc, hlb⟩ := statusWriteByteCarriesItsFields s.cfg.layout ch out ints afc lb hl
  rw [exec_wrStatus_enabled he]
  simp only [State.loadControl, State.recomputeIrq, irqCond, hch, hout, hints, hafc, hlb]

end Sys2Proof.Machine
end

section
/-! A step on a reserved word (30_encoding.md R88; 60_exceptions.md R191; D16). -/

namespace Sys2Proof.Machine

/-- An event whose word is reserved is refused, whatever the state. -/
theorem stepEvent_reserved {e : Event} (h : decode e.word = .error .reservedEventWord) (s : State) :
    stepEvent e s = .refused .reservedEventWord := by
  simp only [stepEvent, h]

/-- Settles O8: the oldest event is taken, and its word is reserved. -/
theorem stepRefusesReservedWords : Obligations.StepRefusesReservedWords := by
  intro s e rest hp hd
  rw [step_of_pending hp, stepEvent_reserved hd]

end Sys2Proof.Machine
end

section
/-! The register ports while the block is disabled (40_register_access.md R100). -/

namespace Sys2Proof.Machine

/-- Settles O13: the gate answers SENTINEL to each read and does nothing for each write. -/
theorem disabledBusEventsAreInert : Obligations.DisabledBusEventsAreInert := by
  refine ⟨fun s i => exec_read_disabled, fun s d he => ⟨?_, ?_, ?_, ?_⟩, rfl⟩
  all_goals exact exec_disabled_of_not_read he rfl nofun

end Sys2Proof.Machine
end

section
/-! The Status port (40_register_access.md R102, R103; D1), and the latch that RESET, ENABLE and POLL leave to it. -/

namespace Sys2Proof.Machine

variable {i : Instr} {s u : State}

/-- RD STATUS while enabled (R102). -/
theorem exec_rdStatus_enabled (he : s.enabled = true) : exec .rdStatus s = .next (s.answer (statusByte s)) :=
  gateRead_enabled he

/-- An event that leaves the block enabled, then RD STATUS, returns the latch the event left. -/
theorem runInstrs_then_rdStatus {v : Byte} (h : exec i s = .next u) (he : u.enabled = true) (hv : statusByte u = v) :
    ∃ t, runInstrs [i, .rdStatus] s = .next t ∧ t.returned = some v := by
  rw [runInstrs_cons_next h, runInstrs_cons_next (exec_rdStatus_enabled he), runInstrs_nil]
  exact ⟨_, rfl, congrArg some hv⟩

/-- The status byte after data: FSYN, DOR and INT up, DEW down, the default LINKS (10_state.md R22). -/
theorem statusByte_of_dataFlags (hc : s.cfg = Config.standard) (hfsyn : s.fsyn = true) (hdor : s.dor = true)
    (hint : s.int = true) (hdew : s.dew = false) : statusByte s = 0xDF#8 := by
  rw [statusByte, hc, hfsyn, hdor, hint, hdew]
  decide

/-- The status byte of the reset latch: no flag up, the default LINKS (10_state.md R46). -/
theorem statusByte_loadResetValues (hc : s.cfg = Config.standard) : statusByte s.loadResetValues = 0x0F#8 := by
  simp only [statusByte, State.loadResetValues_int, State.loadResetValues_dor, State.loadResetValues_dew,
    State.loadResetValues_fsyn, State.loadResetValues_cfg, hc]
  decide

/-- POLL while enabled. -/
theorem exec_poll_enabled (he : s.enabled = true) :
    exec .poll s = .next { s.latchDataReady with rb := mergedRb s, irq := pollIrq s.latchDataReady } :=
  gate_enabled he

/-- The data-ready latch under the default STICKY_MASK sets FSYN, DOR and INT (41_poll_bridge.md R146). -/
theorem latchDataReady_of_anyPayload (hc : s.cfg.wf = true) (hp : anyPayload s.cfg s.feed = true) :
    s.latchDataReady = { s with fsyn := true, dor := true, int := true } := by
  have hlatch : s.latchDataReady = s.setFlags 0xD0#8 := by rw [← stickyMask_of_wf hc]; exact if_pos hp
  rw [hlatch]
  simp [State.setFlags]

/-- Settles O15: the byte's bits are the latch's, and each run ends in a read of the latch its event left. -/
theorem statusReadReturnsTheLatch : Obligations.StatusReadReturnsTheLatch := by
  refine ⟨?word, ?bits, ?flags, ?reset, ?enable, ?poll⟩
  case word => exact decodeOfEncodeIsTheEvent .rdStatus rfl
  case bits =>
    intro s he
    have hdew : (statusByte s).getLsbD 5 = s.dew := by simp
    refine ⟨statusByte s, exec_rdStatus_enabled he, by simp, by simp, hdew, by simp, statusByte_links s, ?_⟩
    exact fun hinv => hdew.trans (hinv.dewStaysClear he)
  case flags =>
    intro s he hc hfsyn hdor hint hdew
    rw [exec_rdStatus_enabled he, statusByte_of_dataFlags hc hfsyn hdor hint hdew]
    rfl
  case reset =>
    intro s he hc
    exact runInstrs_then_rdStatus (exec_reset_enabled he) he (statusByte_loadResetValues hc)
  case enable =>
    intro s he hc
    exact runInstrs_then_rdStatus (exec_enable_disabled he) rfl (statusByte_loadResetValues hc)
  case poll =>
    intro s n p he hc hdew hn hp
    have hany : anyPayload s.cfg s.feed = true := anyPayload_iff.mpr ⟨n, p, by rwa [hc], hp⟩
    have hpoll := exec_poll_enabled he
    rw [latchDataReady_of_anyPayload (hc ▸ standard_wf) hany] at hpoll
    exact runInstrs_then_rdStatus hpoll he (statusByte_of_dataFlags hc rfl rfl rfl hdew)

/-- Settles O16: the default layout has its fields at bits 1:0, 2, 3, 4 and 5. -/
theorem statusWriteLoadsItsFields : Obligations.StatusWriteLoadsItsFields := by
  intro s d he hl
  rw [exec_wrStatus_enabled he, State.loadControl, hl]
  rfl

end Sys2Proof.Machine
end

section
/-! The Clear port (40_register_access.md R108, R109; D4, D24). -/

namespace Sys2Proof.Machine

variable {i : Instr} {s t : State}

/-- RD CLEAR while enabled. -/
theorem exec_rdClear_enabled (he : s.enabled = true) : exec .rdClear s = .next (s.clearAccess.answer 0x00#8) :=
  gateRead_enabled he

/-- WR CLEAR while enabled: D is not used. -/
theorem exec_wrClear_enabled (he : s.enabled = true) (d : Byte) : exec (.wrClear d) s = .next s.clearAccess :=
  gate_enabled he

/-- Clear accesses of the two directions differ in the returned byte alone. -/
theorem exec_isClearAccess_enabled (he : s.enabled = true) (hi : i.isClearAccess = true) :
    ∃ v, exec i s = .next { s.clearAccess with returned := v } := by
  cases i with
  | rdClear => exact ⟨_, exec_rdClear_enabled he⟩
  | wrClear d => exact ⟨_, exec_wrClear_enabled he d⟩
  | _ => cases hi

/-- A Clear access at the default CLEAR_MASK. -/
theorem clearAccess_of_default (hm : s.cfg.clearMask = 0xD0#8) :
    s.clearAccess = { s with fsyn := false, dor := false, int := false, irq := false } := by
  simp [State.clearAccess, State.clearFlags, hm]

/-- The returned byte is no part of what a Clear access reads. -/
theorem clearAccess_answer (v : Byte) : (s.answer v).clearAccess = s.clearAccess.answer v := rfl

/-- After a Clear access that found the block enabled there is nothing left to clear. -/
theorem clearAccess_of_exec (hi : i.isClearAccess = true) (h : exec i s = .next t) (he : t.enabled = true) :
    t.clearAccess = t := by
  cases exec_effect h with
  | sentinel hd | inert hd => cases hd.symm.trans he
  | rdClear => rw [clearAccess_answer, clearAccess_clearAccess]
  | wrClear => exact clearAccess_clearAccess
  | _ => cases hi

/-- A Clear access of a state with nothing to clear changes the returned byte at most. -/
theorem exec_isClearAccess_of_fixed (hi : i.isClearAccess = true) (h : exec i s = .next t)
    (hfixed : s.enabled = true → s.clearAccess = s) : t = { s with returned := t.returned } := by
  cases exec_effect h with
  | sentinel | inert => rfl
  | rdClear he => rw [hfixed he]; rfl
  | wrClear d he => exact hfixed he
  | _ => cases hi

/-- The words of WR CLEAR are 0x700 + D (30_encoding.md R83). -/
theorem formatBW_clear (d : Byte) : BitVec.ofNat 12 (0x700 + d.toNat) = formatBW .clear d := by
  have hoffset : (Port.offset .clear).toNat = 3 := rfl
  apply BitVec.eq_of_toNat_eq
  rw [formatBW_toNat, BitVec.toNat_ofNat]
  omega

/-- Settles O27: the default mask has bits 7, 6 and 4, and a second access finds nothing to clear. -/
theorem clearWriteClearsTheLatch : Obligations.ClearWriteClearsTheLatch := by
  refine ⟨?words, ?effect, ?again⟩
  case words =>
    intro d
    rw [formatBW_clear]
    exact decode_formatBW .clear d
  case effect =>
    intro s d he hm
    rw [exec_wrClear_enabled he, clearAccess_of_default hm]
  case again =>
    intro s t u i j _ hi hj ht hu
    exact exec_isClearAccess_of_fixed hj hu (clearAccess_of_exec hi ht)

/-- Settles O28: the effect of a Clear write, and the answer 0x00. -/
theorem clearReadClearsTheLatch : Obligations.ClearReadClearsTheLatch := by
  intro s he hm
  rw [exec_rdClear_enabled he, clearAccess_of_default hm]
  rfl

/-- Settles O29: either direction leaves the flags that `clearAccess` leaves. -/
theorem clearMaskSelectsTheFlags : Obligations.ClearMaskSelectsTheFlags := by
  intro s i he hi
  obtain ⟨v, h⟩ := exec_isClearAccess_enabled he hi
  exact ⟨_, h, rfl, rfl, rfl, rfl⟩

end Sys2Proof.Machine
end

section
/-! The writers of the interrupt line (40_register_access.md R101; 60_exceptions.md R193; D6, D25). -/

namespace Sys2Proof.Machine

variable {s : State}

/-- With ints_en the default POLL_IRQ_MODE asserts the line (41_poll_bridge.md R149; D25). -/
theorem pollIrq_of_unconditional (hm : s.cfg.pollIrqMode = .unconditional) (hints : s.intsEn = true) :
    pollIrq s = true := by
  simp [pollIrq, hm, hints]

@[simp] theorem latchDataReady_cfg (s : State) : s.latchDataReady.cfg = s.cfg := by
  rcases latchDataReady_cases s with ⟨-, e⟩ | ⟨-, e⟩ <;> rw [e]
  rfl

@[simp] theorem latchDataReady_intsEn (s : State) : s.latchDataReady.intsEn = s.intsEn := by
  rcases latchDataReady_cases s with ⟨-, e⟩ | ⟨-, e⟩ <;> rw [e]
  rfl

/-- Settles O18: one clause for each writer of the line. -/
theorem statusWriteRecomputesTheLine : Obligations.StatusWriteRecomputesTheLine := by
  refine ⟨?status, ?off, ?enable, ?poll⟩
  case status =>
    intro s d he
    exact ⟨_, exec_wrStatus_enabled he d, rfl, rfl⟩
  case off =>
    rintro s i he (hclear | rfl)
    · obtain ⟨v, h⟩ := exec_isClearAccess_enabled he hclear
      exact ⟨_, h, rfl⟩
    · exact ⟨_, exec_reset_enabled he, rfl⟩
  case enable =>
    intro s he
    exact ⟨_, exec_enable_disabled he, rfl⟩
  case poll =>
    intro s he hm hints
    have hirq : pollIrq s.latchDataReady = true := pollIrq_of_unconditional (by simpa using hm) (by simpa using hints)
    exact ⟨_, exec_poll_enabled he, hirq⟩

end Sys2Proof.Machine
end

section
/-! The Row and Data ports under index_policy = mask, and the cursor law (40_register_access.md R104 to R107, R110; D2,
D3). -/

namespace Sys2Proof.Machine

/-- Settles O19: the answer does not read the row pointer. -/
theorem rowReadReturnsZero : Obligations.RowReadReturnsZero :=
  ⟨decodeOfEncodeIsTheEvent .rdRow rfl, fun _ => gateRead_enabled⟩

/-- Settles O20: the seek to row D modulo NROWS. -/
theorem rowWriteSelectsTheRow : Obligations.RowWriteSelectsTheRow :=
  fun _ d he hc hp => exec_wrRow_of_mask he hc hp d

/-- Settles O22: the cursor's address is row·NCOLS + column. -/
theorem dataReadReturnsTheCursorByte : Obligations.DataReadReturnsTheCursorByte :=
  fun _ he hc hp => exec_rdData_of_mask he hc hp

/-- Settles O23: the write at the cursor, read back at every address. -/
theorem dataWriteStoresAtTheCursor : Obligations.DataWriteStoresAtTheCursor := by
  intro s d he hc hp hrb
  exact ⟨_, exec_wrData_of_mask he hc hp d, rfl, fun a => Memory.read_write hrb s.cursorAddr a d⟩

section

variable {s : State} (he : s.enabled = true) (hc : s.cfg.wf = true) (hp : s.cfg.indexPolicy = .mask)
include he hc hp

/-- A Data access of either direction moves the column on, keeps the RowBuffer's canonical form, and writes at most the
RowBuffer and the returned byte beside (10_state.md R34). -/
theorem exec_dataAccess_of_mask {i : Instr} (hi : i.isDataAccess = true) (hrow : s.rowPtr < s.cfg.nrows)
    (hcol : s.colPtr < s.cfg.ncols) (hrb : s.rb.wf s.cfg = true) :
    ∃ (m : Memory) (v : Option Byte), m.wf s.cfg = true ∧
      exec i s = .next { s with rb := m, colPtr := (s.colPtr + 1) % s.cfg.ncols, returned := v } := by
  cases i with
  | rdData => exact ⟨s.rb, _, hrb, exec_rdData_of_mask he hc hp⟩
  | wrData d => exact ⟨_, s.returned, wf_storeAtCursor hrow hcol hrb d, exec_wrData_of_mask he hc hp d⟩
  | _ => cases hi

/-- A run of Data accesses in any mix moves the column on by their number (R110). -/
theorem runInstrs_dataAccesses {accesses : List Instr} (hacc : ∀ i ∈ accesses, i.isDataAccess = true)
    (hrow : s.rowPtr < s.cfg.nrows) (hcol : s.colPtr < s.cfg.ncols) (hrb : s.rb.wf s.cfg = true) :
    ∃ (m : Memory) (v : Option Byte), m.wf s.cfg = true ∧
      runInstrs accesses s =
        .next { s with rb := m, colPtr := (s.colPtr + accesses.length) % s.cfg.ncols, returned := v } := by
  induction accesses generalizing s with
  | nil => exact ⟨s.rb, s.returned, hrb, by simp [runInstrs_nil, Nat.mod_eq_of_lt hcol]⟩
  | cons i accesses ih =>
    obtain ⟨hi, hrest⟩ := List.forall_mem_cons.mp hacc
    obtain ⟨m, v, hm, hexec⟩ := exec_dataAccess_of_mask he hc hp hi hrow hcol hrb
    have hcol' : (s.colPtr + 1) % s.cfg.ncols < s.cfg.ncols := Nat.mod_lt _ (Nat.zero_lt_of_lt hcol)
    obtain ⟨m', v', hm', hrun⟩ :=
      ih (s := { s with rb := m, colPtr := (s.colPtr + 1) % s.cfg.ncols, returned := v }) he hc hp hrest hrow hcol' hm
    refine ⟨m', v', hm', ?_⟩
    rw [runInstrs_cons_next hexec, hrun, Nat.mod_add_mod, List.length_cons, Nat.add_assoc, Nat.add_comm 1]

/-- WR ROW r, then Data accesses in any mix: the cursor's row and column, and the frame (R105, R110). -/
theorem runInstrs_seek_dataAccesses (r : Byte) {accesses : List Instr} (hacc : ∀ i ∈ accesses, i.isDataAccess = true)
    (hrb : s.rb.wf s.cfg = true) :
    ∃ t, runInstrs (.wrRow r :: accesses) s = .next t ∧
      t.rowPtr = r.toNat % s.cfg.nrows ∧ t.colPtr = accesses.length % s.cfg.ncols ∧
      t = { s with
        rb := t.rb
        rowPtr := t.rowPtr
        colPtr := t.colPtr
        returned := t.returned
        pastEnd := t.pastEnd } ∧
      t.rb.wf s.cfg = true := by
  have hrow : r.toNat % s.cfg.nrows < s.cfg.nrows := rowField_of_wf hc r ▸ rowField_lt hc r
  have hcol : 0 < s.cfg.ncols := Nat.zero_lt_of_lt (nextCol_lt hc 0)
  obtain ⟨m, v, hm, hrun⟩ :=
    runInstrs_dataAccesses (s := s.seekRow (r.toNat % s.cfg.nrows)) he hc hp hacc hrow hcol hrb
  rw [← runInstrs_cons_next (exec_wrRow_of_mask he hc hp r), State.seekRow_colPtr, Nat.zero_add] at hrun
  exact ⟨_, hrun, rfl, rfl, rfl, hm⟩

end

/-- Settles O25: the seek homes the column, the accesses move it on by their number, and one more access meets the cursor
there. -/
theorem cursorLaw : Obligations.CursorLaw := by
  intro s r d accesses he hc hp hrb hacc
  obtain ⟨t, hrun, hrow, hcol, hframe, hm⟩ := runInstrs_seek_dataAccesses he hc hp r hacc hrb
  have hcfg : t.cfg = s.cfg := by rw [hframe]
  have ht : t.enabled = true := by rwa [hframe]
  refine ⟨t, hrun, hrow, hcol, hframe, ?_⟩
  rw [← hrow, ← hcol, ← hcfg]
  rw [← hcfg] at hc hp hm
  exact ⟨⟨_, exec_rdData_of_mask ht hc hp, rfl, rfl⟩, _, exec_wrData_of_mask ht hc hp d,
    fun a => Memory.read_write hm _ a d⟩

end Sys2Proof.Machine
end

section
/-! POLL: the data-ready latch, the row merge and the interrupt step (41_poll_bridge.md R140 to R149; C2, C4, D12, D25),
and the mode events that find nothing to do (R142; 42_lifecycle.md R170 to R172; D8, D9, D11). -/

namespace Sys2Proof.Machine

variable {s : State}

/-! ### The latch and the line -/

/-- With no payload on any slot the latch step does nothing (41_poll_bridge.md R147). -/
theorem latchDataReady_of_no_payload (hp : anyPayload s.cfg s.feed = false) : s.latchDataReady = s := by
  simp [State.latchDataReady, hp]

/-- STICKY_MASK has no bit for DEW (10_state.md R25; C2). -/
theorem latchDataReady_dew (hc : s.cfg.wf = true) : s.latchDataReady.dew = s.dew := by
  cases hany : anyPayload s.cfg s.feed with
  | true => rw [latchDataReady_of_anyPayload hc hany]
  | false => rw [latchDataReady_of_no_payload hany]

@[simp] theorem latchDataReady_irq (s : State) : s.latchDataReady.irq = s.irq := by
  rcases latchDataReady_cases s with ⟨-, e⟩ | ⟨-, e⟩ <;> rw [e]
  rfl

/-- POLL while enabled, with every field it writes named (41_poll_bridge.md R140). -/
theorem exec_poll_writes (he : s.enabled = true) : exec .poll s = .next { s with
    fsyn := s.latchDataReady.fsyn
    dew := s.latchDataReady.dew
    dor := s.latchDataReady.dor
    int := s.latchDataReady.int
    rb := mergedRb s
    irq := pollIrq s.latchDataReady } := by
  rw [exec_poll_enabled he]
  rcases latchDataReady_cases s with ⟨-, e⟩ | ⟨-, e⟩ <;> rw [e]
  rfl

/-- At the default POLL_IRQ_MODE the interrupt step does not read INT (41_poll_bridge.md R149). -/
theorem pollIrq_eq_or (hm : s.cfg.pollIrqMode = .unconditional) : pollIrq s = (s.irq || s.intsEn) := by
  simp only [pollIrq, hm]

/-! ### The merge, row by row -/

section

variable {c : Params} {p : Payload} {m : Memory} {i : Nat}

/-- A row whose record's first byte is 0x00 is left as it is (41_poll_bridge.md R145). -/
theorem mergeRow_of_zero (hz : p[c.reclen * i]? = some 0x00#8) : mergeRow c p m i = m :=
  if_pos (payloadByte_of_getElem? hz)

/-- A row whose record starts with another byte is refreshed (41_poll_bridge.md R145). -/
theorem mergeRow_of_ne_zero (hc : c.wf = true) (hlen : p.length = c.k) (hi : i < c.nrows)
    (hne : p[c.reclen * i]? ≠ some 0x00#8) : mergeRow c p m i = refreshRow c p m i := by
  obtain ⟨-, hreclen, -⟩ := dimensions_of_wf hc
  have hfirst : p[c.reclen * i]? = some (recordByte c p i 0) := getElem?_record hc hlen hi hreclen
  exact if_neg fun h => hne (hfirst.trans (congrArg some h))

/-- Records that all start with 0x00 refresh no row (41_poll_bridge.md R146). -/
theorem mergePayload_of_zero (hz : ∀ i, i < c.nrows → p[c.reclen * i]? = some 0x00#8) : mergePayload c p m = m := by
  refine List.foldlRecOn (motive := (· = m)) _ (mergeRow c p) rfl fun m' hm i hi => ?_
  rw [mergeRow_of_zero (hz i (List.mem_range.mp hi)), hm]

/-- The merge reaches columns 0..RECLEN of the RowBuffer's rows only. -/
theorem read_mergePayload_other (hc : c.wf = true) (p : Payload) (m : Memory) {a : Nat}
    (ha : c.nrows * c.ncols ≤ a ∨ c.reclen < a % c.ncols) : (mergePayload c p m).read a = m.read a := by
  obtain ⟨-, -, hcols, -⟩ := dimensions_of_wf hc
  refine read_foldl_mergeRow_other hc p m fun i hi => ?_
  have hrow : i < c.nrows := List.mem_range.mp hi
  refine ha.imp_left fun hout => ?_
  have hdiv : c.nrows ≤ a / c.ncols := (Nat.le_div_iff_mul_le (by omega)).mpr hout
  omega

end

/-! ### The RowBuffer after a POLL -/

section

variable {p : Payload} {i col : Nat}

/-- With the output enabled the selected slot's payload is merged (41_poll_bridge.md R140 step 3, R141). -/
theorem mergedRb_of_payload (ho : s.outEn = true) (hc : s.cfg.wf = true)
    (hp : s.feed[s.channel.toNat]? = some (some p)) : mergedRb s = mergePayload s.cfg p s.rb := by
  have hsel : selectedPayload s = some p := (selectedPayload_eq_some hc).mpr hp
  simp only [mergedRb, ho, hsel, if_true]

/-- Without a payload on the selected slot nothing is merged. -/
theorem mergedRb_of_absent (hp : s.feed[s.channel.toNat]? = some none) : mergedRb s = s.rb := by
  rcases mergedRb_cases s with ⟨p, -, hsel, -⟩ | ⟨-, e⟩
  · obtain ⟨-, hsome⟩ := slotPayload_eq_some.mp hsel
    simp [hp] at hsome
  · exact e

/-- With the output off nothing is merged. -/
theorem mergedRb_of_outputOff (ho : s.outEn = false) : mergedRb s = s.rb := by simp [mergedRb, ho]

/-- A slot's payload is read from that slot alone. -/
theorem slotPayload_congr {c : Params} {f g : Feed} {n : Nat} (h : f[n]? = g[n]?) :
    slotPayload c f n = slotPayload c g n :=
  Option.ext fun _ => by rw [slotPayload_eq_some, slotPayload_eq_some, h]

/-- The merge reads of the feed only the selected slot (41_poll_bridge.md R141; D12). -/
theorem mergedRb_congr_feed {f : Feed} (h : f[s.channel.toNat]? = s.feed[s.channel.toNat]?) :
    mergedRb { s with feed := f } = mergedRb s := by
  have hsel : selectedPayload { s with feed := f } = selectedPayload s := slotPayload_congr h
  simp only [mergedRb, hsel]

/-- A POLL reaches columns 0..RECLEN of the RowBuffer's rows only. -/
theorem read_mergedRb_other (hc : s.cfg.wf = true) {a : Nat}
    (ha : s.cfg.nrows * s.cfg.ncols ≤ a ∨ s.cfg.reclen < a % s.cfg.ncols) : (mergedRb s).read a = s.rb.read a := by
  rcases mergedRb_cases s with ⟨p, -, -, e⟩ | ⟨-, e⟩ <;> rw [e]
  exact read_mergePayload_other hc p s.rb ha

/-- A row that a POLL does not refresh keeps its bytes: the output is off, the selected slot offers nothing, or the
record starts with 0x00 (41_poll_bridge.md R145). -/
theorem read_mergedRb_kept (hc : s.cfg.wf = true) (hrb : s.rb.wf s.cfg = true) (hi : i < s.cfg.nrows)
    (hcol : col < s.cfg.ncols)
    (h : s.outEn = false ∨ s.feed[s.channel.toNat]? = some none ∨
      ∃ p : Payload, s.feed[s.channel.toNat]? = some (some p) ∧ p[s.cfg.reclen * i]? = some 0x00#8) :
    (mergedRb s).read (rbAddr s.cfg i col) = s.rb.read (rbAddr s.cfg i col) := by
  rcases h with ho | hnone | ⟨p, hp, hz⟩
  · rw [mergedRb_of_outputOff ho]
  · rw [mergedRb_of_absent hnone]
  · cases ho : s.outEn with
    | false => rw [mergedRb_of_outputOff ho]
    | true => rw [mergedRb_of_payload ho hc hp, read_mergePayload hc p hrb hi hcol, mergeRow_of_zero hz]

section

variable (hc : s.cfg.wf = true) (hrb : s.rb.wf s.cfg = true) (hfeed : s.feed.wf s.cfg = true) (ho : s.outEn = true)
  (hp : s.feed[s.channel.toNat]? = some (some p)) (hi : i < s.cfg.nrows) (hne : p[s.cfg.reclen * i]? ≠ some 0x00#8)
include hc hrb hfeed ho hp hi hne

/-- A row that a POLL refreshes holds, column by column, what its own refresh puts there (41_poll_bridge.md R145). -/
theorem read_mergedRb_refreshed (hcol : col < s.cfg.ncols) :
    (mergedRb s).read (rbAddr s.cfg i col) = (refreshRow s.cfg p s.rb i).read (rbAddr s.cfg i col) := by
  rw [mergedRb_of_payload ho hc hp, read_mergePayload hc p hrb hi hcol,
    mergeRow_of_ne_zero hc (length_of_feedWf hfeed hp) hi hne]

theorem read_mergedRb_marker : (mergedRb s).read (rbAddr s.cfg i 0) = s.cfg.marker := by
  obtain ⟨-, -, hcols, -⟩ := dimensions_of_wf hc
  rw [read_mergedRb_refreshed hc hrb hfeed ho hp hi hne (by omega), read_refreshRow_marker hc p hrb]

/-- The record's own bytes, from the tested one on (41_poll_bridge.md R144; C4). -/
theorem read_mergedRb_record {j : Nat} (hj : j < s.cfg.reclen) :
    some ((mergedRb s).read (rbAddr s.cfg i (1 + j))) = p[s.cfg.reclen * i + j]? := by
  obtain ⟨-, -, hcols, -⟩ := dimensions_of_wf hc
  rw [read_mergedRb_refreshed hc hrb hfeed ho hp hi hne (by omega), read_refreshRow_record hc p hrb hi hj,
    getElem?_record hc (length_of_feedWf hfeed hp) hi hj]

end

/-- The columns after the record keep their bytes in every row (41_poll_bridge.md R145). -/
theorem read_mergedRb_after_record (hc : s.cfg.wf = true) (hlt : s.cfg.reclen < col) (hcol : col < s.cfg.ncols) :
    (mergedRb s).read (rbAddr s.cfg i col) = s.rb.read (rbAddr s.cfg i col) :=
  read_mergedRb_other hc (.inr (by rwa [rbAddr_mod i hcol]))

end

/-! ### The statements -/

/-- Settles O30: the latch is the OR of bits 7, 6 and 4 exactly when some slot delivers, and records that start with
0x00 merge nothing. -/
theorem pollLatchesDataFromAnySlot : Obligations.PollLatchesDataFromAnySlot := by
  intro s he hc
  have hsets (h : ∃ (n : Nat) (p : Payload), n < s.cfg.nchan ∧ s.feed[n]? = some (some p)) :
      s.latchDataReady.fsyn = true ∧ s.latchDataReady.dor = true ∧ s.latchDataReady.int = true := by
    rw [latchDataReady_of_anyPayload hc (anyPayload_iff.mpr h)]
    exact ⟨rfl, rfl, rfl⟩
  refine ⟨_, exec_poll_enabled he, latchDataReady_dew hc, hsets, ?quiet, ?zeros⟩
  case quiet =>
    intro hnone
    have hany : anyPayload s.cfg s.feed = false := by
      rw [← Bool.not_eq_true, anyPayload_iff]
      rintro ⟨n, p, hn, hp⟩
      exact hnone n p hn hp
    rw [latchDataReady_of_no_payload hany]
    exact ⟨rfl, rfl, rfl⟩
  case zeros =>
    intro p hp hz
    obtain ⟨hslot, -⟩ := slotPayload_eq_some.mp ((selectedPayload_eq_some hc).mpr hp)
    refine ⟨?_, hsets ⟨s.channel.toNat, p, hslot, hp⟩⟩
    cases ho : s.outEn with
    | false => exact mergedRb_of_outputOff ho
    | true => exact (mergedRb_of_payload ho hc hp).trans (mergePayload_of_zero hz)

/-- Settles O31: the row's own decision, byte by byte. -/
theorem pollMergesRowByRow : Obligations.PollMergesRowByRow := by
  intro s i he hc hrb hfeed hi
  refine ⟨_, exec_poll_enabled he, ?refreshed, ?kept, ?defaults⟩
  case refreshed =>
    intro p ho hp hne
    exact ⟨read_mergedRb_marker hc hrb hfeed ho hp hi hne,
      fun _ => read_mergedRb_record hc hrb hfeed ho hp hi hne,
      fun _ => read_mergedRb_after_record hc⟩
  case kept => exact fun hkept _ hcol => read_mergedRb_kept hc hrb hi hcol hkept
  case defaults =>
    intro hstd
    rw [hstd]
    exact ⟨rfl, rfl, rfl, rfl⟩

/-- Settles O34: the latch step writes the flags, the merge columns 0..RECLEN, the interrupt step the line. -/
theorem pollChangesNothingElse : Obligations.PollChangesNothingElse :=
  fun _ he hc => ⟨_, exec_poll_writes he, rfl, fun _ => read_mergedRb_other hc⟩

/-- Settles O35: the merge reads only the selected slot, and a disabled block merges nothing. -/
theorem unselectedChannelsDoNotReachTheBuffer : Obligations.UnselectedChannelsDoNotReachTheBuffer := by
  intro s f hf
  rcases Bool.eq_false_or_eq_true s.enabled with he | he
  · exact ⟨_, _, exec_poll_enabled he, exec_poll_enabled (s := { s with feed := f }) he, mergedRb_congr_feed hf,
      mergedRb_of_absent⟩
  · exact ⟨_, _, exec_disabled_of_not_read he rfl nofun,
      exec_disabled_of_not_read (s := { s with feed := f }) he rfl nofun, rfl, fun _ => rfl⟩

/-- A POLL, then READROW i of n + 1 bytes: the last byte is the merged RowBuffer's at column n (R105, R106; D2, D3). -/
theorem runInstrs_poll_readRow (he : s.enabled = true) (hc : s.cfg.wf = true) (hm : s.cfg.indexPolicy = .mask)
    {i n : Nat} (hi : i < s.cfg.nrows) (hn : n < s.cfg.ncols) :
    ∃ t, runInstrs (.poll :: pseudoInstrs s.cfg (.readRow (BitVec.ofNat 8 i) (n + 1))) s = .next t ∧
      t.returned = some ((mergedRb s).read (rbAddr s.cfg i n)) := by
  have hrow : (BitVec.ofNat 8 i).toNat % s.cfg.nrows = i := by
    have hbyte : i < 2 ^ 8 := hi.trans_le (nrows_le_of_wf hc)
    rw [BitVec.toNat_ofNat, Nat.mod_eq_of_lt hbyte, Nat.mod_eq_of_lt hi]
  obtain ⟨u, hpoll, hu, hcfg, hrb⟩ :
      ∃ u, exec .poll s = .next u ∧ u.enabled = true ∧ u.cfg = s.cfg ∧ u.rb = mergedRb s :=
    ⟨_, exec_poll_writes he, he, rfl, rfl⟩
  rw [← hcfg] at hc hm hn
  obtain ⟨t, hget, hlast⟩ := runInstrs_readRow hu hc hm (BitVec.ofNat 8 i) hn
  rw [hcfg] at hget
  rw [hcfg, hrow, hrb] at hlast
  exact ⟨t, (runInstrs_cons_next hpoll).trans hget, hlast⟩

/-- Settles O36: the last byte read is the refreshed row's at column n. -/
theorem deliveredRowBecomesReadable : Obligations.DeliveredRowBecomesReadable := by
  intro s p i n he ho hc hm hrb hfeed hp hi hne hn
  obtain ⟨t, hrun, hlast⟩ := runInstrs_poll_readRow he hc hm hi hn
  refine ⟨t, hrun, ?marker, ?record, ?after⟩ <;> rw [hlast]
  case marker =>
    rintro rfl
    rw [read_mergedRb_marker hc hrb hfeed ho hp hi hne]
  case record =>
    intro hpos hle
    rw [← read_mergedRb_record hc hrb hfeed ho hp hi hne (by omega), Nat.add_sub_cancel' hpos]
  case after =>
    intro hlt
    rw [read_mergedRb_after_record hc hlt hn]
    rfl

/-- Settles O32: the latch step before it leaves the line and ints_en as they were. -/
theorem pollAssertsTheLineWhenEnabled : Obligations.PollAssertsTheLineWhenEnabled := by
  intro s he hm
  have hirq : pollIrq s.latchDataReady = (s.irq || s.intsEn) := by
    rw [pollIrq_eq_or (by simpa using hm), latchDataReady_irq, latchDataReady_intsEn]
  exact ⟨_, exec_poll_enabled he, hirq⟩

/-- Settles O40: the gate is shut for the first three, and ENABLE does nothing while enabled. -/
theorem redundantModeEventsDoNothing : Obligations.RedundantModeEventsDoNothing := by
  refine ⟨fun s he => ⟨?_, ?_, ?_⟩, fun s he => if_pos he⟩
  all_goals exact exec_disabled_of_not_read he rfl nofun

end Sys2Proof.Machine
end

section
/-! The line at DISABLE (42_lifecycle.md R171; D10). -/

namespace Sys2Proof.Machine

/-- DISABLE while enabled. -/
theorem exec_disable_enabled {s : State} (he : s.enabled = true) :
    exec .disable s = .next { s with enabled := false } :=
  gate_enabled he

/-- Settles O39: the gate is open, and behind it DISABLE writes the mode alone. -/
theorem disableKeepsEverythingElse : Obligations.DisableKeepsEverythingElse :=
  fun _ => exec_disable_enabled

end Sys2Proof.Machine
end

section
/-! What an event can be refused for (60_exceptions.md R190, R191; D2, D3; log 18). -/

namespace Sys2Proof.Machine

variable {i : Instr} {s : State}

/-- A Row write is refused under the refuse policy, for a row past the last. -/
theorem refusesRow_iff {d : Byte} : s.refusesRow d = true ↔ s.cfg.indexPolicy = .refuse ∧ s.cfg.nrows ≤ d.toNat := by
  simp [State.refusesRow, rowOutOfRange]

/-- A Data access is refused under the refuse policy, past the end of the row. -/
theorem refusesData_iff : s.refusesData = true ↔ s.cfg.indexPolicy = .refuse ∧ s.pastEnd = true := by
  simp [State.refusesData]

/-- Settles O21: the gate is open, and under the refuse policy D alone decides. -/
theorem rowWriteUnderRefusePolicy : Obligations.RowWriteUnderRefusePolicy := by
  intro s d he hc hp
  rw [exec_wrRow_enabled he]
  refine ⟨fun hout => if_pos (refusesRow_iff.mpr ⟨hp, hout⟩), fun hin => ?_⟩
  have hrow : rowField s.cfg d = d.toNat := (rowField_of_wf hc d).trans (Nat.mod_eq_of_lt hin)
  rw [if_neg fun hrefused => hin.not_ge (refusesRow_iff.mp hrefused).2, hrow]
  rfl

/-- Every event of a disabled block completes (40_register_access.md R100; log 18). -/
theorem exec_disabled_completes (he : s.enabled = false) (i : Instr) : ∃ t, exec i s = .next t := by
  by_cases henable : i = .enable
  · rw [henable]
    exact ⟨_, exec_enable_disabled he⟩
  · cases hi : i.isRead with
    | true => exact ⟨_, exec_read_disabled he hi⟩
    | false => exact ⟨_, exec_disabled_of_not_read he hi henable⟩

/-- A guarded access completes, or it is refused and its guard is up. -/
theorem completes_or_refused_of_eq_ite {r : Result} {b : Bool} {t : State}
    (h : r = if b then .refused .indexOutOfRange else .next t) :
    (∃ u, r = .next u) ∨ (r = .refused .indexOutOfRange ∧ b = true) := by
  cases b with
  | true => exact .inr ⟨h, rfl⟩
  | false => exact .inl ⟨t, h⟩

/-- An event of an enabled block completes, or it is one of the two guarded accesses, its guard up. -/
theorem exec_enabled_completes_or_refused (he : s.enabled = true) (i : Instr) : (∃ t, exec i s = .next t) ∨
    (exec i s = .refused .indexOutOfRange ∧
      ((∃ d, i = .wrRow d ∧ s.refusesRow d = true) ∨ (i.isDataAccess = true ∧ s.refusesData = true))) := by
  cases i with
  | rdStatus => exact .inl ⟨_, exec_rdStatus_enabled he⟩
  | rdRow => exact .inl ⟨_, gateRead_enabled he⟩
  | rdClear => exact .inl ⟨_, exec_rdClear_enabled he⟩
  | wrStatus d => exact .inl ⟨_, exec_wrStatus_enabled he d⟩
  | wrClear d => exact .inl ⟨_, exec_wrClear_enabled he d⟩
  | poll => exact .inl ⟨_, exec_poll_enabled he⟩
  | reset => exact .inl ⟨_, exec_reset_enabled he⟩
  | enable => exact .inl ⟨s, if_pos he⟩
  | disable => exact .inl ⟨_, exec_disable_enabled he⟩
  | wrRow d =>
    exact (completes_or_refused_of_eq_ite (exec_wrRow_enabled he d)).imp_right
      fun ⟨href, hguard⟩ => ⟨href, .inl ⟨d, rfl, hguard⟩⟩
  | rdData =>
    exact (completes_or_refused_of_eq_ite (exec_rdData_enabled he)).imp_right
      fun ⟨href, hguard⟩ => ⟨href, .inr ⟨rfl, hguard⟩⟩
  | wrData d =>
    exact (completes_or_refused_of_eq_ite (exec_wrData_enabled he d)).imp_right
      fun ⟨href, hguard⟩ => ⟨href, .inr ⟨rfl, hguard⟩⟩

/-- Settles O42: a disabled block refuses nothing, an enabled one the two guarded accesses, by their guards. -/
theorem everyEventCompletesOrIsOutOfRange : Obligations.EveryEventCompletesOrIsOutOfRange := by
  intro i s
  rcases Bool.eq_false_or_eq_true s.enabled with he | he
  · rcases exec_enabled_completes_or_refused he i with hnext | ⟨href, ⟨d, hi, hguard⟩ | ⟨hi, hguard⟩⟩
    · exact .inl hnext
    · obtain ⟨hp, hout⟩ := refusesRow_iff.mp hguard
      exact .inr ⟨href, he, hp, .inl ⟨d, hi, hout⟩⟩
    · obtain ⟨hp, hpast⟩ := refusesData_iff.mp hguard
      exact .inr ⟨href, he, hp, .inr ⟨hi, hpast⟩⟩
  · exact .inl (exec_disabled_completes he i)

/-- Under the mask policy every event completes (R191). -/
theorem exec_completes_of_mask (hp : s.cfg.indexPolicy = .mask) (i : Instr) : ∃ t, exec i s = .next t := by
  rcases everyEventCompletesOrIsOutOfRange i s with hnext | ⟨-, -, hrefuse, -⟩
  · exact hnext
  · cases hp.symm.trans hrefuse

/-- Settles O58: the oldest event decodes and completes, and leaves the parameters and the later events. -/
theorem stepsGoOnUnlessReserved : Obligations.StepsGoOnUnlessReserved := by
  intro s hp hlegal
  cases hpending : s.pending with
  | nil => exact ⟨s, by simp only [step, hpending], hp, hlegal⟩
  | cons e rest =>
    rw [hpending, List.forall_mem_cons] at hlegal
    obtain ⟨⟨i, hi⟩, hrest⟩ := hlegal
    obtain ⟨t, ht⟩ := exec_completes_of_mask (s := (s.withPending rest).takeInputs e) hp i
    have hcfg : t.cfg = s.cfg := (exec_cfg ht).trans rfl
    have hpend : t.pending = rest := (exec_pending ht).trans rfl
    refine ⟨t, (step_of_pending hpending).trans ((stepEvent_ok hi).trans ht), ?_, ?_⟩
    · rwa [hcfg]
    · rwa [hpend]

end Sys2Proof.Machine
end

section
/-! The interrupt: its pending record in the latch, and the line (60_exceptions.md R193, R194, R196, R197;
70_reset_and_hazards.md R229). -/

namespace Sys2Proof.Machine

variable {i : Instr} {s t : State}

/-- Settles O46: the masks of POLL and of the Clear accesses and the reset latch hold bits 7, 6 and 4 alike. -/
theorem dataFlagsStayTogether : Obligations.DataFlagsStayTogether := by
  intro i s t hc hm h hfsyn hdor
  have hresetFsyn : s.loadResetValues.fsyn = false := statusReset_flag_of_wf hc (by decide) (by decide)
  have hresetDor : s.loadResetValues.dor = false := statusReset_flag_of_wf hc (by decide) (by decide)
  have hresetInt : s.loadResetValues.int = false := statusReset_flag_of_wf hc (by decide) (by decide)
  cases exec_effect h with
  | rdClear | wrClear =>
    rw [clearAccess_of_default hm]
    exact ⟨rfl, rfl⟩
  | pollData => simp [stickyMask_of_wf hc]
  | reset | enable => exact ⟨hresetFsyn.trans hresetInt.symm, hresetDor.trans hresetInt.symm⟩
  | _ => exact ⟨hfsyn, hdor⟩

/-- The line of a disabled block: only ENABLE writes it (R193). -/
theorem exec_irq_disabled (he : s.enabled = false) (h : exec i s = .next t) :
    t.irq = if i = .enable then false else s.irq := by
  by_cases henable : i = .enable
  · subst henable
    rw [exec_enable_disabled he] at h
    cases h
    rfl
  · rw [if_neg henable]
    cases hi : i.isRead with
    | true => rw [exec_read_disabled he hi] at h; cases h; rfl
    | false => rw [exec_disabled_of_not_read he hi henable] at h; cases h; rfl

/-- Settles O52: the table, row by row. -/
theorem eventsAndTheLine : Obligations.EventsAndTheLine := by
  intro i s t hm hl h
  refine ⟨fun he => ?_, fun he => exec_irq_disabled he h⟩
  cases exec_effect h with
  | sentinel hd | inert hd | enable hd => cases he.symm.trans hd
  | wrStatus d =>
    have hints : bitField s.cfg.layout.intsEn d = d.getLsbD 3 := by rw [hl]; rfl
    exact congrArg (· && s.int) hints
  | pollData => exact pollIrq_eq_or (s := s.setFlags s.cfg.stickyMask) hm
  | pollQuiet => exact pollIrq_eq_or hm
  | _ => rfl

/-- Every event keeps `irq ⇒ ints_en`, whatever the parameters (R196). -/
theorem exec_keeps_irq_intsEn (h : exec i s = .next t) (hs : s.irq = true → s.intsEn = true) :
    t.irq = true → t.intsEn = true := by
  cases exec_effect h with
  | rdClear | wrClear | reset | enable => nofun
  | wrStatus d => exact fun hirq => (Bool.and_eq_true_iff.mp hirq).1
  | pollData => exact intsEn_of_pollIrq (s := s.setFlags s.cfg.stickyMask) hs
  | pollQuiet => exact intsEn_of_pollIrq hs
  | _ => exact hs

/-- Settles O54: the line is off at power-on, and every event of the run keeps the implication. -/
theorem lineImpliesInterruptsEnabled : Obligations.LineImpliesInterruptsEnabled := by
  rintro s ⟨s₀, es, ⟨-, hirq⟩, hrun⟩
  have hstart : s₀.irq = true → s₀.intsEn = true := fun hon => absurd hon (by simp [hirq])
  exact runEvents_keeps (P := fun u => u.irq = true → u.intsEn = true)
    (fun _ _ _ _ _ _ hexec hu => exec_keeps_irq_intsEn hexec hu) hstart hrun

/-- No slot of the absent feed delivers (41_poll_bridge.md R147). -/
theorem anyPayload_absent (c : Params) : anyPayload c (Feed.absent c) = false := by
  simp [anyPayload, Feed.absent]

/-- One event of a run, decoded and run. -/
theorem runEvents_cons_of_exec {e : Event} {es : List Event} (hi : decode e.word = .ok i)
    (h : exec i (s.takeInputs e) = .next t) : runEvents (e :: es) s = runEvents es t :=
  runEvents_cons_next ((stepEvent_ok hi).trans h)

/-- A POLL with ints_en up and no payload asserts the line and leaves INT (41_poll_bridge.md R147, R149; D25). -/
theorem exec_poll_asserts_without_data (he : s.enabled = true) (hm : s.cfg.pollIrqMode = .unconditional)
    (hints : s.intsEn = true) (hp : anyPayload s.cfg s.feed = false) :
    ∃ t, exec .poll s = .next t ∧ t.irq = true ∧ t.int = s.int := by
  rw [exec_poll_enabled he, latchDataReady_of_no_payload hp]
  exact ⟨_, rfl, pollIrq_of_unconditional hm hints, rfl⟩

/-- ENABLE of a disabled block at the default parameters leaves INT clear (42_lifecycle.md R170). -/
theorem exec_enable_standard (he : s.enabled = false) (hc : s.cfg = Config.standard) :
    ∃ t, exec .enable s = .next t ∧ t.enabled = true ∧ t.cfg = Config.standard ∧ t.int = false :=
  ⟨_, exec_enable_disabled he, rfl, hc, statusReset_flag_of_wf (hc ▸ standard_wf) (by decide) (by decide)⟩

/-- A Status write of 0x08 at the default parameters sets ints_en and leaves INT (40_register_access.md R103; D1). -/
theorem exec_wrStatus_0x08_standard (he : s.enabled = true) (hc : s.cfg = Config.standard) :
    ∃ t, exec (.wrStatus 0x08#8) s = .next t ∧ t.enabled = true ∧ t.cfg = Config.standard ∧ t.intsEn = true ∧
      t.int = s.int := by
  have hints : bitField s.cfg.layout.intsEn 0x08#8 = true := by
    rw [hc]
    decide
  exact ⟨_, exec_wrStatus_enabled he 0x08#8, he, hc, hints, rfl⟩

/-- Settles O55: ENABLE clears INT, the Status write sets ints_en, and the POLL asserts the line without data. -/
theorem lineWithoutIntIsReachable : Obligations.LineWithoutIntIsReachable := by
  rintro s ⟨he, -⟩ hc
  rw [hc]
  obtain ⟨u, henable, hu, hucfg, huint⟩ :=
    exec_enable_standard (s := s.takeInputs ⟨0xD00#12, Feed.absent Config.standard, []⟩) he hc
  obtain ⟨v, hstatus, hv, hvcfg, hvints, hvint⟩ :=
    exec_wrStatus_0x08_standard (s := u.takeInputs ⟨0x408#12, Feed.absent Config.standard, []⟩) hu hucfg
  have hmode : v.cfg.pollIrqMode = .unconditional := by rw [hvcfg]; rfl
  have hquiet : anyPayload v.cfg (Feed.absent Config.standard) = false := by rw [hvcfg]; exact anyPayload_absent _
  obtain ⟨t, hpoll, hirq, hint⟩ :=
    exec_poll_asserts_without_data (s := v.takeInputs ⟨0x800#12, Feed.absent Config.standard, []⟩) hv hmode hvints
      hquiet
  refine ⟨t, ?_, hirq, hint.trans (hvint.trans huint)⟩
  rw [runEvents_cons_of_exec (decodeOfEncodeIsTheEvent .enable rfl) henable,
    runEvents_cons_of_exec (decodeOfEncodeIsTheEvent (.wrStatus 0x08#8) rfl) hstatus,
    runEvents_cons_of_exec (decodeOfEncodeIsTheEvent .poll rfl) hpoll, runEvents_nil]

end Sys2Proof.Machine
end

section
/-! The wait: a step with no event pending (70_reset_and_hazards.md R220; log 1). -/

namespace Sys2Proof.Machine

/-- Settles O9: a step finds no event to take, and hands back the state it was given; `step_of_pending` is the other
case. -/
theorem stepWaitsWithoutEvents : Obligations.StepWaitsWithoutEvents := by
  intro s hpending
  simp only [step, hpending]

end Sys2Proof.Machine
end

section
/-! POLL's interrupt step under POLL_IRQ_MODE = recompute (41_poll_bridge.md R149; 90_conflicts.md C1; D25; log 10). -/

namespace Sys2Proof.Machine

variable {s : State}

/-- The other value of the switch, beside `pollIrq_eq_or`: the line is recomputed as a Status write does it (R101). -/
theorem pollIrq_eq_irqCond (hm : s.cfg.pollIrqMode = .recompute) : pollIrq s = irqCond s := by
  simp only [pollIrq, hm]

/-- Settles O33: the interrupt step reads the state after the latch step, which leaves ints_en as it was; INT is the one
the POLL ends with. -/
theorem pollRecomputesUnderTheSwitch : Obligations.PollRecomputesUnderTheSwitch := by
  intro s he hm
  have hirq : pollIrq s.latchDataReady = (s.intsEn && s.latchDataReady.int) := by
    rw [pollIrq_eq_irqCond (by simpa using hm), irqCond, latchDataReady_intsEn]
  exact ⟨_, exec_poll_enabled he, hirq⟩

end Sys2Proof.Machine
end
